-- ==== Sys2Proof/Word.lean ====
section
/-! DEFINITION. The two unit widths of the CORE block: a 32-bit command, argument and register word, and an 8-bit
stream byte (00_scope.md R5, R7; 20_memory.md R65, R69). -/

namespace Sys2Proof

/-- A 32-bit word of the command port or of the register read port (R5, R65). -/
abbrev Word := BitVec 32

/-- A byte of the input or output stream (R5, R65). -/
abbrev Byte := BitVec 8

end Sys2Proof
end

