-- ==== Sys2Proof/Syntax.lean ====
section
/-! DEFINITION. The commands of CORE command set revision 1: one constructor per row of spec/opcode_table.json, with the
operands of 30_encoding.md R93 and R95. -/

namespace Sys2Proof

/-- A command (30_encoding.md R93). A count `n` or `r` and the channel argument `ch` are IMM, zero-extended: a number the
block only compares and counts with, so a natural number, whose 24-bit bound `Instr.wf` checks. An argument word is used
whole (R91), so it is a word. -/
inductive Instr where
  /-- NOP (40_control.md R124). -/
  | nop
  /-- SRST (40_control.md R125). -/
  | srst
  /-- RAW n (40_control.md R126). -/
  | raw (n : Nat)
  /-- CRC_INIT (41_crc32.md R143). -/
  | crcInit
  /-- CRC_FEED n (41_crc32.md R144). -/
  | crcFeed (n : Nat)
  /-- CRC_PUT (41_crc32.md R145). -/
  | crcPut
  /-- ADL_INIT (42_adler32.md R163). -/
  | adlInit
  /-- ADL_FEED n (42_adler32.md R164). -/
  | adlFeed (n : Nat)
  /-- ADL_PUT (42_adler32.md R165). -/
  | adlPut
  /-- ZLB_BEGIN N: `N` is word 1 (43_zlib_framer.md R187). -/
  | zlbBegin (N : Word)
  /-- ZLB_DATA n (43_zlib_framer.md R188). -/
  | zlbData (n : Nat)
  /-- ZLB_END (43_zlib_framer.md R189). -/
  | zlbEnd
  /-- CHK_BEGIN L, T: `L` is word 1 and the tag `T` word 2 (45_chunk_serializer.md R234). -/
  | chkBegin (L T : Word)
  /-- CHK_DATA n (45_chunk_serializer.md R235). -/
  | chkData (n : Nat)
  /-- CHK_END (45_chunk_serializer.md R236). -/
  | chkEnd
  /-- FLT_CFG ch, W: `ch` is IMM and `W` word 1 (44_scanline_filter.md R213). -/
  | fltCfg (ch : Nat) (W : Word)
  /-- FLT_ROWS r (44_scanline_filter.md R214). -/
  | fltRows (r : Nat)
deriving DecidableEq, Repr

end Sys2Proof
end

