-- ==== Sys2Proof/Machine/State.lean ====
section
/-! DEFINITION. The block's state (10_state.md R20-R30), the reasons a step can stop, and the state after reset
(R44; 70_reset_and_hazards.md R310). -/

namespace Sys2Proof.Machine

/-- The error codes of 60_exceptions.md R281. Codes 6 to 15 are "never written", so they have no constructor. -/
inductive ErrCode where
  /-- 0, NONE: no error since the last reset or SRST. -/
  | noError
  /-- 1, BAD_OPCODE. -/
  | badOpcode
  /-- 2, BAD_RSVD. -/
  | badRsvd
  /-- 3, BAD_STATE. -/
  | badState
  /-- 4, BAD_ARG. -/
  | badArg
  /-- 5, BAD_LEN. -/
  | badLen
deriving DecidableEq, Repr

/-- Reasons for the machine to stop with a fault. There is none: every error of the spec is a command error, recorded in
the state (60_exceptions.md R280, R283), after which the block goes on taking commands (R286), and waiting is not an
error (R289). -/
inductive Fault where
deriving DecidableEq, Repr

/-- Reasons for an instruction to have no meaning. -/
inductive Refusal where
  /-- Raised only by an arm of `exec` for an instruction that has no meaning yet; no arm is in that case. Safe: the machine
  stops where the hardware goes on. -/
  | notModelled (mnemonic : String)
deriving DecidableEq, Repr

/-- The state of the block: the fields of 10_state.md R21-R28, the streams of R29, and the command in execution that R30
speaks of. Plain data. -/
structure State where
  /-- `st.crc`, the CRC register before the final inversion (R21). -/
  crc : Word
  /-- `st.adl_a` (R22). -/
  adlA : BitVec 16
  /-- `st.adl_b` (R22). -/
  adlB : BitVec 16
  /-- `st.chk_open`: a chunk has been begun and not ended (R23). -/
  chkOpen : Bool
  /-- `st.chk_rem`: payload bytes the open chunk still expects (R23). -/
  chkRem : Word
  /-- `st.z_open`: a zlib stream has been begun and not ended (R24). -/
  zOpen : Bool
  /-- `st.z_rem`: payload bytes the open stream still expects (R24). -/
  zRem : Word
  /-- `st.z_blk`: payload bytes still to come in the current stored block, 0 when none is in progress (R25). -/
  zBlk : BitVec 16
  /-- `st.z_hdr`: the current stream has emitted a stored-block header (R25). -/
  zHdr : Bool
  /-- `st.flt_w`: row width in pixels, 0 when not configured (R26). -/
  fltW : Word
  /-- `st.flt_ch` as the one bit it is in hardware, `flt_ch4`: set for 4 channels, clear for 3 (R26). -/
  fltCh4 : Bool
  /-- `st.err`, the sticky error flag (R27). -/
  err : Bool
  /-- `st.err_code` (R27, R281). -/
  errCode : ErrCode
  /-- `st.err_cmd`: word 0 of the failing command (R27). -/
  errCmd : Word
  /-- The command assembler: the words held of a command not yet whole (R28). The expected length is a function of the
  first of them (R92: `commandLength`). -/
  asmWords : List Word
  /-- The command that has passed its checks and waits for its input bytes (R30 "when a command is executing (for example,
  waiting for input bytes ...)"; 40_control.md R127). -/
  current : Option Instr
  /-- The command stream: words pushed and not yet taken, oldest first (R29). -/
  cmdq : List Word
  /-- `inq`: input bytes pushed and not yet consumed, oldest first (R29). -/
  inq : List Byte
  /-- `outq`: output bytes produced and not yet taken by the host, oldest first (R29). -/
  outq : List Byte
deriving DecidableEq, Repr

/-- After hardware reset (R44; 70_reset_and_hazards.md R310): the table of R44, every FIFO and the assembler empty, no
command pending. -/
def State.reset : State where
  crc := 0xFFFFFFFF#32
  adlA := 1#16
  adlB := 0#16
  chkOpen := false
  chkRem := 0#32
  zOpen := false
  zRem := 0#32
  zBlk := 0#16
  zHdr := false
  fltW := 0#32
  fltCh4 := false
  err := false
  errCode := .noError
  errCmd := 0#32
  asmWords := []
  current := none
  cmdq := []
  inq := []
  outq := []

/-- What one step answers on this machine. -/
abbrev Result := Host.Outcome State Fault Refusal

end Sys2Proof.Machine
end

