-- ==== Sys2Proof/Machine/Checksum.lean ====
section
/-! DEFINITION. The one-byte updates of the two checksums (41_crc32.md R141, 42_adler32.md R161) and the words their
registers read as (10_state.md R35, R36). -/

namespace Sys2Proof.Machine

/-- The CRC-32 polynomial, reflected (R140). -/
def crcPoly : Word := 0xEDB88320#32

/-- The initial CRC register and the value of the final XOR (R140). -/
def crcOnes : Word := 0xFFFFFFFF#32

/-- One turn of the loop of R141. -/
def crcBit (c : Word) : Word := if c.getLsbD 0 then (c >>> 1) ^^^ crcPoly else c >>> 1

/-- The 8 turns of the loop of R141. -/
def crcEight (c : Word) : Word := crcBit (crcBit (crcBit (crcBit (crcBit (crcBit (crcBit (crcBit c)))))))

/-- `CrcByte(c, b)`: the byte XORed into the low bits, then the 8 turns (R141). -/
def crcByte (c : Word) (b : Byte) : Word := crcEight (c ^^^ b.setWidth 32)

/-- `Tab[i]`, the byte table of R146: the loop of R141 on `c = i` alone. -/
def crcTable (i : Byte) : Word := crcEight (i.setWidth 32)

/-- The value CRC_VALUE reads for a register value (R35). -/
def crcOut (c : Word) : Word := c ^^^ crcOnes

/-- The Adler modulus (R160). -/
def adlerMod : Nat := 65521

/-- `AdlByte(a, b, x)`, exact and then reduced; `b'` uses the new `a'` (R161). -/
def adlByte (sums : BitVec 16 × BitVec 16) (x : Byte) : BitVec 16 × BitVec 16 :=
  let a' := (sums.1.toNat + x.toNat) % adlerMod
  (BitVec.ofNat 16 a', BitVec.ofNat 16 ((sums.2.toNat + a') % adlerMod))

/-- `(zext_32(b) << 16) | zext_32(a)` (R36, R160). -/
def adlerOut (a b : BitVec 16) : Word := (b.setWidth 32 <<< 16) ||| a.setWidth 32

end Sys2Proof.Machine
end

