-- ==== Sys2Proof/WellFormed.lean ====
section
/-! DEFINITION. Which commands can be written as words: IMM has 24 bits (30_encoding.md R90, R91), and "The assembler
refuses a count that does not fit 24 bits" (R100). Argument words hold any 32-bit value (R94). -/

namespace Sys2Proof

/-- `v` fits the 24-bit field IMM (30_encoding.md R90: `IMM = w0[23:0]`). -/
def fitsImm (v : Nat) : Bool := decide (v < 16777216)

/-- A command whose operands fit their fields (30_encoding.md R91, R100). What the block itself refuses at run time (a tag
that is not letters, a channel count other than 3 or 4, a width 0) is NOT refused here: R94, R100. -/
def Instr.wf : Instr → Bool
  | .nop => true
  | .srst => true
  | .raw n => fitsImm n
  | .crcInit => true
  | .crcFeed n => fitsImm n
  | .crcPut => true
  | .adlInit => true
  | .adlFeed n => fitsImm n
  | .adlPut => true
  | .zlbBegin _ => true
  | .zlbData n => fitsImm n
  | .zlbEnd => true
  | .chkBegin _ _ => true
  | .chkData n => fitsImm n
  | .chkEnd => true
  | .fltCfg ch _ => fitsImm ch
  | .fltRows r => fitsImm r

end Sys2Proof
end

