-- ==== Sys2Proof/Decode.lean ====
section
/-! DEFINITION. The command encoding (30_encoding.md): fields, opcode map, framing, the decoder, total on every list of
words and rejecting by name, and the encoder written from the same table. -/

namespace Sys2Proof

/-- The four formats (R91). -/
inductive Format where
  /-- One word, IMM reserved. -/
  | f0
  /-- One word, IMM a count. -/
  | fn
  /-- Two words. -/
  | fw
  /-- Three words, IMM reserved. -/
  | ft
deriving DecidableEq, Repr

/-- The defined opcodes, by mnemonic (R93). -/
inductive Opcode where
  | nop | srst | raw | crcInit | crcFeed | crcPut | adlInit | adlFeed | adlPut
  | zlbBegin | zlbData | zlbEnd | chkBegin | chkData | chkEnd | fltCfg | fltRows
deriving DecidableEq, Repr

/-- Why the decoder rejects a whole command (R96, R97). -/
inductive Illegal where
  /-- OPC is reserved (R96). -/
  | reservedOpcode
  /-- A reserved IMM is not 0 (R97). -/
  | reservedImm
deriving DecidableEq, Repr

/-- What the decoder finds at the front of a list of command words. -/
inductive Fetched where
  /-- Not all the words of the command are there yet (R92, R318). -/
  | incomplete
  /-- A whole command the decoder rejects: why, its word 0, and the words after it. -/
  | illegal (why : Illegal) (w0 : Word) (rest : List Word)
  /-- A whole command, and the words after it. -/
  | command (i : Instr) (rest : List Word)
deriving DecidableEq, Repr

/-- Words per command of a format (R91). -/
def Format.words : Format → Nat
  | .f0 => 1
  | .fn => 1
  | .fw => 2
  | .ft => 3

/-- The OPC column of R93. -/
def Opcode.code : Opcode → BitVec 8
  | .nop => 0x00#8
  | .srst => 0x01#8
  | .raw => 0x02#8
  | .crcInit => 0x10#8
  | .crcFeed => 0x11#8
  | .crcPut => 0x12#8
  | .adlInit => 0x20#8
  | .adlFeed => 0x21#8
  | .adlPut => 0x22#8
  | .zlbBegin => 0x30#8
  | .zlbData => 0x31#8
  | .zlbEnd => 0x32#8
  | .chkBegin => 0x40#8
  | .chkData => 0x41#8
  | .chkEnd => 0x42#8
  | .fltCfg => 0x50#8
  | .fltRows => 0x51#8

/-- The format column of R93. -/
def Opcode.format : Opcode → Format
  | .nop | .srst | .crcInit | .crcPut | .adlInit | .adlPut | .zlbEnd | .chkEnd => .f0
  | .raw | .crcFeed | .adlFeed | .zlbData | .chkData | .fltRows => .fn
  | .zlbBegin | .fltCfg => .fw
  | .chkBegin => .ft

/-- The rows of R93, in its order. -/
def Opcode.all : List Opcode :=
  [.nop, .srst, .raw, .crcInit, .crcFeed, .crcPut, .adlInit, .adlFeed, .adlPut,
   .zlbBegin, .zlbData, .zlbEnd, .chkBegin, .chkData, .chkEnd, .fltCfg, .fltRows]

/-- `OPC = w0[31:24]` (R90). -/
def opcOf (w0 : Word) : BitVec 8 := w0.extractLsb' 24 8

/-- `IMM = w0[23:0]` (R90). -/
def immOf (w0 : Word) : BitVec 24 := w0.extractLsb' 0 24

/-- The row of R93 with this OPC; none for a reserved one (R96). -/
def lookupOpcode (b : BitVec 8) : Option Opcode := Opcode.all.find? fun o => o.code == b

/-- The number of words of a command, from OPC alone; 1 for a reserved opcode (R92, R96). -/
def commandLength (w0 : Word) : Nat :=
  match lookupOpcode (opcOf w0) with
  | some o => o.format.words
  | none => 1

/-- A command whose IMM is reserved: `i` if IMM is 0, otherwise the error of R97. -/
def zeroImm (w0 : Word) (i : Instr) (rest : List Word) : Fetched :=
  if immOf w0 = 0#24 then .command i rest else .illegal .reservedImm w0 rest

/-- The decoder, on the words after word 0, for a defined opcode (R93-R95). -/
def decodeDefined (o : Opcode) (w0 : Word) (ws : List Word) : Fetched :=
  match o with
  | .nop => zeroImm w0 .nop ws
  | .srst => zeroImm w0 .srst ws
  | .raw => .command (.raw (immOf w0).toNat) ws
  | .crcInit => zeroImm w0 .crcInit ws
  | .crcFeed => .command (.crcFeed (immOf w0).toNat) ws
  | .crcPut => zeroImm w0 .crcPut ws
  | .adlInit => zeroImm w0 .adlInit ws
  | .adlFeed => .command (.adlFeed (immOf w0).toNat) ws
  | .adlPut => zeroImm w0 .adlPut ws
  | .zlbBegin =>
    match ws with
    | w1 :: rest => zeroImm w0 (.zlbBegin w1) rest
    | [] => .incomplete
  | .zlbData => .command (.zlbData (immOf w0).toNat) ws
  | .zlbEnd => zeroImm w0 .zlbEnd ws
  | .chkBegin =>
    match ws with
    | w1 :: w2 :: rest => zeroImm w0 (.chkBegin w1 w2) rest
    | [_] => .incomplete
    | [] => .incomplete
  | .chkData => .command (.chkData (immOf w0).toNat) ws
  | .chkEnd => zeroImm w0 .chkEnd ws
  | .fltCfg =>
    match ws with
    | w1 :: rest => .command (.fltCfg (immOf w0).toNat w1) rest
    | [] => .incomplete
  | .fltRows => .command (.fltRows (immOf w0).toNat) ws

/-- The decoder: the command at the front of the command words (R92-R97). -/
def decode : List Word → Fetched
  | [] => .incomplete
  | w0 :: ws =>
    match lookupOpcode (opcOf w0) with
    | none => .illegal .reservedOpcode w0 ws
    | some o => decodeDefined o w0 ws

/-! ## The encoder -/

/-- The row of R93 that a command belongs to. -/
def Instr.opcode : Instr → Opcode
  | .nop => .nop
  | .srst => .srst
  | .raw _ => .raw
  | .crcInit => .crcInit
  | .crcFeed _ => .crcFeed
  | .crcPut => .crcPut
  | .adlInit => .adlInit
  | .adlFeed _ => .adlFeed
  | .adlPut => .adlPut
  | .zlbBegin _ => .zlbBegin
  | .zlbData _ => .zlbData
  | .zlbEnd => .zlbEnd
  | .chkBegin _ _ => .chkBegin
  | .chkData _ => .chkData
  | .chkEnd => .chkEnd
  | .fltCfg _ _ => .fltCfg
  | .fltRows _ => .fltRows

/-- What a command's IMM holds: its count, FLT_CFG's `ch`, or the reserved 0 (R91, R95). -/
def Instr.imm : Instr → Nat
  | .raw n => n
  | .crcFeed n => n
  | .adlFeed n => n
  | .zlbData n => n
  | .chkData n => n
  | .fltCfg ch _ => ch
  | .fltRows r => r
  | .nop | .srst | .crcInit | .crcPut | .adlInit | .adlPut | .zlbEnd | .chkEnd => 0
  | .zlbBegin _ => 0
  | .chkBegin _ _ => 0

/-- The argument words of a command (R91, R95). -/
def Instr.args : Instr → List Word
  | .zlbBegin N => [N]
  | .chkBegin L T => [L, T]
  | .fltCfg _ W => [W]
  | .nop | .srst | .crcInit | .crcPut | .adlInit | .adlPut | .zlbEnd | .chkEnd => []
  | .raw _ | .crcFeed _ | .adlFeed _ | .zlbData _ | .chkData _ | .fltRows _ => []

/-- Word 0: OPC in bits 31:24, IMM in bits 23:0 (R90). -/
def makeWord0 (opc : BitVec 8) (imm : BitVec 24) : Word := opc ++ imm

/-- Word 0 of a command (R90, R93). -/
def Instr.word0 (i : Instr) : Word := makeWord0 i.opcode.code (BitVec.ofNat 24 i.imm)

/-- The words of a command, in the order the host pushes them (R90, R91). -/
def encode (i : Instr) : List Word := i.word0 :: i.args

/-! ## The opcode table's numbering -/

/-- The three words that a table word numbers: bit 0 is bit 0 of word 0, and each later word's bits count on from the one
before. Bits from `nbits` up are 0. -/
def tableWords (nbits w : Nat) : List Word :=
  let v := w % 2 ^ nbits
  [BitVec.ofNat 32 v, BitVec.ofNat 32 (v / 2 ^ 32), BitVec.ofNat 32 (v / 2 ^ 64)]

/-- The words of the ONE command that a table word numbers: as many as its opcode says (R92). -/
def tableCommand (nbits w : Nat) : List Word :=
  (tableWords nbits w).take (commandLength (BitVec.ofNat 32 (w % 2 ^ nbits)))

/-- The instruction this decoder reads from an instruction whose bits are `w`, numbered as spec/opcode_table.json numbers
them. -/
def decodeTableWord (nbits w : Nat) : Option Instr :=
  match decode (tableCommand nbits w) with
  | .command i _ => some i
  | .illegal _ _ _ => none
  | .incomplete => none

end Sys2Proof
end

