-- ==== Sys2Proof/Machine/Operands.lean ====
section
/-! DEFINITION. Byte orders (00_scope.md R8, 20_memory.md R63, R64), the tag check (45_chunk_serializer.md R231), the
lengths of the zlib stream (43_zlib_framer.md R183) and of filtered data (44_scanline_filter.md R214), the filter itself
(R210, R211), and `Need(w)` (40_control.md R121). -/

namespace Sys2Proof.Machine

/-- `BE32(v) = [v[31:24], v[23:16], v[15:8], v[7:0]]` (R8). -/
def be32 (v : Word) : List Byte :=
  [v.extractLsb' 24 8, v.extractLsb' 16 8, v.extractLsb' 8 8, v.extractLsb' 0 8]

/-- `LE16(v) = [v[7:0], v[15:8]]` (R8). -/
def le16 (v : BitVec 16) : List Byte := [v.extractLsb' 0 8, v.extractLsb' 8 8]

/-- An ASCII letter: 0x41-0x5A or 0x61-0x7A (R231). -/
def isLetter (b : Byte) : Bool :=
  decide (0x41 ≤ b.toNat ∧ b.toNat ≤ 0x5A) || decide (0x61 ≤ b.toNat ∧ b.toNat ≤ 0x7A)

/-- Every byte of `BE32(T)` is an ASCII letter (R231). -/
def tagOk (T : Word) : Bool := (be32 T).all isLetter

/-- Payload bytes of a full stored block (00_scope.md R5; R182). -/
def storedMax : Nat := 65535

/-- `nb(N) = max(1, ceil(N / 65535))`, the number of stored blocks (R183). -/
def blockCount (N : Nat) : Nat := max 1 ((N + (storedMax - 1)) / storedMax)

/-- `zsize(N) = 2 + 5 * nb(N) + N + 4`, the length of the whole stream, exact (R183, R7). -/
def zsize (N : Nat) : Nat := 2 + 5 * blockCount N + N + 4

/-- The 2-byte zlib header (R181). -/
def zlibHeader : List Byte := [0x78#8, 0x01#8]

/-- The 5 header bytes of a stored block: `[f] ++ LE16(len) ++ LE16(~len & 0xFFFF)` (R184). -/
def storedHeader (final : Bool) (len : BitVec 16) : List Byte :=
  (if final then 0x01#8 else 0x00#8) :: (le16 len ++ le16 (~~~len))

/-- The empty final block (R185, R189). -/
def emptyBlock : List Byte := [0x01#8, 0x00#8, 0x00#8, 0xFF#8, 0xFF#8]

/-- Source channels per pixel (R211). -/
def channels (ch4 : Bool) : Nat := if ch4 then 4 else 3

/-- `st.flt_ch` as a number (10_state.md R26). -/
def State.fltCh (s : State) : Nat := channels s.fltCh4

/-- Pixels of R, G, B, A without their A (R211). A last pixel with a byte missing gives nothing. -/
def dropAlpha : List Byte → List Byte
  | r :: g :: b :: _ :: rest => r :: g :: b :: dropAlpha rest
  | [_, _, _] => []
  | [_, _] => []
  | [_] => []
  | [] => []

/-- The R, G, B bytes of a row of pixels (R211). -/
def rowRgb (ch4 : Bool) (row : List Byte) : List Byte := if ch4 then dropAlpha row else row

/-- `r` rows of filtered data from raster bytes: for each row the filter byte 0, then the row's R, G, B bytes
(R210, R214). -/
def filterRows (ch4 : Bool) (W : Nat) : Nat → List Byte → List Byte
  | 0, _ => []
  | r + 1, bytes =>
    (0x00#8 :: rowRgb ch4 (bytes.take (W * channels ch4)))
      ++ filterRows ch4 W r (bytes.drop (W * channels ch4))

/-- `m = r * (1 + 3*W)`, the length of `r` filtered rows, exact (R214, R7). -/
def filteredLength (r W : Nat) : Nat := r * (1 + 3 * W)

/-- `Need(w)`: the number of input bytes the command will pop (40_control.md R121). -/
def needBytes (i : Instr) (s : State) : Nat :=
  match i with
  | .raw n => n
  | .crcFeed n => n
  | .adlFeed n => n
  | .zlbData n => n
  | .chkData n => n
  | .fltRows r => r * s.fltW.toNat * s.fltCh
  | .nop | .srst | .crcInit | .crcPut | .adlInit | .adlPut | .zlbEnd | .chkEnd => 0
  | .zlbBegin _ => 0
  | .chkBegin _ _ => 0
  | .fltCfg _ _ => 0

end Sys2Proof.Machine
end

