-- ==== Sys2Proof/Machine/Ops.lean ====
section
/-! DEFINITION. The shared operations: the streams (20_memory.md R61, R62), the emit chain (R66-R68), raising a command
error (60_exceptions.md R283) and leaving the error state (40_control.md R125), the priority of errors (R284), and
`Execute` (40_control.md R121). -/

namespace Sys2Proof.Machine

/-! ## Streams -/

/-- The next `n` bytes of the input stream, in stream order (R61, R72). -/
def State.inBytes (n : Nat) (s : State) : List Byte := s.inq.take n

/-- `n` calls of `InPop` (R61): the bytes are removed from the front. -/
def State.inDrop (n : Nat) (s : State) : State := { s with inq := s.inq.drop n }

/-- `OutPush(b)` (R62): the output is unbounded in the model (70_reset_and_hazards.md R317). -/
def State.outPush (s : State) (b : Byte) : State := { s with outq := s.outq ++ [b] }

/-- `for y in ys: OutPush(y)`. -/
def State.outAll (s : State) (ys : List Byte) : State := ys.foldl State.outPush s

/-! ## The emit chain -/

/-- `EmitC(b)`, the chunk stage (R66). -/
def State.emitC (s : State) (b : Byte) : State :=
  (if s.chkOpen then { s with crc := crcByte s.crc b, chkRem := s.chkRem - 1#32 } else s).outPush b

/-- `for y in ys: EmitC(y)`. -/
def State.emitAll (s : State) (ys : List Byte) : State := ys.foldl State.emitC s

/-- The start of a stored block in `FeedZ` (R67): header, LEN and NLEN, then `z_blk` and `z_hdr`. -/
def State.startBlock (s : State) : State :=
  let len := min s.zRem.toNat storedMax
  let final := decide (s.zRem.toNat ≤ storedMax)
  { s.emitAll (storedHeader final (BitVec.ofNat 16 len)) with zBlk := BitVec.ofNat 16 len, zHdr := true }

/-- The payload part of `FeedZ` (R67): the sums, the byte, and the two counts. -/
def State.feedPayload (s : State) (x : Byte) : State :=
  let sums := adlByte (s.adlA, s.adlB) x
  { ({ s with adlA := sums.1, adlB := sums.2 } : State).emitC x with
    zBlk := s.zBlk - 1#16, zRem := s.zRem - 1#32 }

/-- `FeedZ(x)`, the framer stage (R67). -/
def State.feedZ (s : State) (x : Byte) : State :=
  (if s.zBlk = 0#16 then s.startBlock else s).feedPayload x

/-- `for x in xs: FeedZ(x)`. -/
def State.feedAll (s : State) (xs : List Byte) : State := xs.foldl State.feedZ s

/-- `Route(b)`, the filter's output (R68). -/
def State.route (s : State) (b : Byte) : State := if s.zOpen then s.feedZ b else s.emitC b

/-- `for b in bs: Route(b)`. -/
def State.routeAll (s : State) (bs : List Byte) : State := bs.foldl State.route s

/-! ## Errors -/

/-- `raise Error(code)` (60_exceptions.md R283): the flag, the code and word 0, and nothing else. -/
def State.raiseError (code : ErrCode) (w0 : Word) (s : State) : State :=
  { s with err := true, errCode := code, errCmd := w0 }

/-- `ResetState()` (40_control.md R125): every field of the table of 10_state.md R44; the streams, the FIFOs and the
assembler are not touched (70_reset_and_hazards.md R312). -/
def State.softReset (s : State) : State :=
  { State.reset with
    asmWords := s.asmWords, current := s.current, cmdq := s.cmdq, inq := s.inq, outq := s.outq }

/-- The error code recorded for a command the decoder rejects (60_exceptions.md R281). -/
def illegalCode : Illegal → ErrCode
  | .reservedOpcode => .badOpcode
  | .reservedImm => .badRsvd

/-- Priority (60_exceptions.md R284): of the checks of R282 that fail, the lowest code. BAD_OPCODE and BAD_RSVD are found
before these, by the decoder. -/
def firstError (badState badArg badLen : Bool) : Option ErrCode :=
  if badState then some .badState
  else if badArg then some .badArg
  else if badLen then some .badLen
  else none

/-! ## The execution cycle -/

/-- A command passed its checks but its input bytes are not all there (40_control.md R127): it stays the command in
execution, and nothing else changes. -/
def State.await (i : Instr) (s : State) : State := { s with current := some i }

/-- `Execute(w)` (40_control.md R121): the error gate (R123), the checks, the wait for input, then `Perform`. -/
def execute (i : Instr) (check : Option ErrCode) (perform : State → State) (s : State) : Result :=
  if s.err then .next s
  else
    match check with
    | some code => .next (s.raiseError code i.word0)
    | none => if s.inq.length < needBytes i s then .next (s.await i) else .next (perform s)

/-- A whole command the decoder rejects reaches the front (60_exceptions.md R282, R283): discarded in the error state
(R286), an error otherwise. -/
def executeIllegal (why : Illegal) (w0 : Word) (s : State) : Result :=
  if s.err then .next s else .next (s.raiseError (illegalCode why) w0)

end Sys2Proof.Machine
end

