-- ==== Sys2Proof/Machine/Adler.lean ====
section
/-! DEFINITION. The Adler-32 commands (42_adler32.md R163-R165). -/

namespace Sys2Proof.Machine

/-- `Perform(ADL_INIT)` (R163). -/
def performAdlInit (s : State) : State := { s with adlA := 1#16, adlB := 0#16 }

/-- ADL_INIT (R163): BAD_STATE if a stream is open. -/
def execAdlInit (s : State) : Result :=
  execute .adlInit (firstError s.zOpen false false) performAdlInit s

/-- `Perform(ADL_FEED n)` (R164). -/
def performAdlFeed (n : Nat) (s : State) : State :=
  let sums := (s.inBytes n).foldl adlByte (s.adlA, s.adlB)
  { s.inDrop n with adlA := sums.1, adlB := sums.2 }

/-- ADL_FEED n (R164): BAD_STATE if a stream is open. -/
def execAdlFeed (n : Nat) (s : State) : Result :=
  execute (.adlFeed n) (firstError s.zOpen false false) (performAdlFeed n) s

/-- `Perform(ADL_PUT)` (R165). -/
def performAdlPut (s : State) : State := s.outAll (be32 (adlerOut s.adlA s.adlB))

/-- ADL_PUT (R165): BAD_STATE if a chunk or a stream is open. -/
def execAdlPut (s : State) : Result :=
  execute .adlPut (firstError (s.chkOpen || s.zOpen) false false) performAdlPut s

end Sys2Proof.Machine
end

