-- ==== Sys2Proof/Machine/Chunk.lean ====
section
/-! DEFINITION. The chunk serializer's commands (45_chunk_serializer.md R234-R236). -/

namespace Sys2Proof.Machine

/-- `Perform(CHK_BEGIN L, T)` (R234): the length, outside the CRC and the count; then the tag, in the CRC and outside the
count. -/
def performChkBegin (L T : Word) (s : State) : State :=
  { (s.outAll (be32 L)).outAll (be32 T) with
    crc := (be32 T).foldl crcByte crcOnes, chkRem := L, chkOpen := true }

/-- CHK_BEGIN L, T (R234): BAD_STATE if a chunk or a stream is open, BAD_ARG if the tag is not 4 letters. -/
def execChkBegin (L T : Word) (s : State) : Result :=
  execute (.chkBegin L T) (firstError (s.chkOpen || s.zOpen) (!tagOk T) false) (performChkBegin L T) s

/-- `Perform(CHK_DATA n)` (R235). -/
def performChkData (n : Nat) (s : State) : State := (s.inDrop n).emitAll (s.inBytes n)

/-- CHK_DATA n (R235): BAD_STATE if no chunk is open or a stream is, BAD_LEN if `n` exceeds what is expected. -/
def execChkData (n : Nat) (s : State) : Result :=
  execute (.chkData n) (firstError (!s.chkOpen || s.zOpen) false (decide (n > s.chkRem.toNat)))
    (performChkData n) s

/-- `Perform(CHK_END)` (R236): the CRC, outside the CRC; `st.crc` keeps its value. -/
def performChkEnd (s : State) : State := { s.outAll (be32 (crcOut s.crc)) with chkOpen := false }

/-- CHK_END (R236): BAD_STATE if no chunk is open or a stream is, BAD_LEN if payload bytes are missing. -/
def execChkEnd (s : State) : Result :=
  execute .chkEnd (firstError (!s.chkOpen || s.zOpen) false (s.chkRem != 0#32)) performChkEnd s

end Sys2Proof.Machine
end

