-- ==== Sys2Proof/Machine/Control.lean ====
section
/-! DEFINITION. The control commands (40_control.md R124-R126). -/

namespace Sys2Proof.Machine

/-- NOP (R124): "skip". -/
def execNop (s : State) : Result := execute .nop none id s

/-- SRST (R125): executed in the error state too (R123). -/
def execSrst (s : State) : Result := .next s.softReset

/-- `Perform(RAW n)` (R126). -/
def performRaw (n : Nat) (s : State) : State := (s.inDrop n).outAll (s.inBytes n)

/-- RAW n (R126): BAD_STATE if a chunk or a stream is open. -/
def execRaw (n : Nat) (s : State) : Result :=
  execute (.raw n) (firstError (s.chkOpen || s.zOpen) false false) (performRaw n) s

end Sys2Proof.Machine
end

