-- ==== Sys2Proof/Machine/Crc.lean ====
section
/-! DEFINITION. The CRC-32 commands (41_crc32.md R143-R145). -/

namespace Sys2Proof.Machine

/-- `Perform(CRC_INIT)` (R143). -/
def performCrcInit (s : State) : State := { s with crc := crcOnes }

/-- CRC_INIT (R143): BAD_STATE if a chunk is open. -/
def execCrcInit (s : State) : Result :=
  execute .crcInit (firstError s.chkOpen false false) performCrcInit s

/-- `Perform(CRC_FEED n)` (R144): consumed, not passed through. -/
def performCrcFeed (n : Nat) (s : State) : State :=
  { s.inDrop n with crc := (s.inBytes n).foldl crcByte s.crc }

/-- CRC_FEED n (R144): BAD_STATE if a chunk is open. -/
def execCrcFeed (n : Nat) (s : State) : Result :=
  execute (.crcFeed n) (firstError s.chkOpen false false) (performCrcFeed n) s

/-- `Perform(CRC_PUT)` (R145). -/
def performCrcPut (s : State) : State := s.outAll (be32 (crcOut s.crc))

/-- CRC_PUT (R145): BAD_STATE if a chunk or a stream is open. -/
def execCrcPut (s : State) : Result :=
  execute .crcPut (firstError (s.chkOpen || s.zOpen) false false) performCrcPut s

end Sys2Proof.Machine
end

