-- ==== Sys2Proof/Machine/Filter.lean ====
section
/-! DEFINITION. The filter's commands (44_scanline_filter.md R213, R214). -/

namespace Sys2Proof.Machine

/-- `Perform(FLT_CFG ch, W)` (R213). The check leaves `ch` = 3 or 4; `flt_ch4` is 1 for 4 (10_state.md R26). -/
def performFltCfg (ch : Nat) (W : Word) (s : State) : State :=
  { s with fltCh4 := decide (ch = 4), fltW := W }

/-- FLT_CFG ch, W (R213): BAD_ARG if `ch` is not 3 or 4, or `W` = 0. No state check. -/
def execFltCfg (ch : Nat) (W : Word) (s : State) : Result :=
  execute (.fltCfg ch W) (firstError false (!(decide (ch = 3) || decide (ch = 4)) || W == 0#32) false)
    (performFltCfg ch W) s

/-- `Perform(FLT_ROWS r)` (R214): the filtered bytes of the rows go to `Route`, in order. -/
def performFltRows (r : Nat) (s : State) : State :=
  let need := needBytes (.fltRows r) s
  (s.inDrop need).routeAll (filterRows s.fltCh4 s.fltW.toNat r (s.inBytes need))

/-- FLT_ROWS r (R214): BAD_STATE if the filter is not configured, BAD_LEN if the filtered bytes exceed what the open stream
expects, or, with no stream, what the open chunk expects. -/
def execFltRows (r : Nat) (s : State) : Result :=
  let m := filteredLength r s.fltW.toNat
  execute (.fltRows r)
    (firstError (s.fltW == 0#32) false
      ((s.zOpen && decide (m > s.zRem.toNat)) ||
       (!s.zOpen && s.chkOpen && decide (m > s.chkRem.toNat))))
    (performFltRows r) s

end Sys2Proof.Machine
end

