-- ==== Sys2Proof/Machine/Zlib.lean ====
section
/-! DEFINITION. The zlib framer's commands (43_zlib_framer.md R187-R189). -/

namespace Sys2Proof.Machine

/-- `Perform(ZLB_BEGIN N)` (R187). -/
def performZlbBegin (N : Word) (s : State) : State :=
  ({ s with adlA := 1#16, adlB := 0#16, zOpen := true, zRem := N, zBlk := 0#16, zHdr := false } : State).emitAll
    zlibHeader

/-- ZLB_BEGIN N (R187): BAD_STATE if a stream is open, BAD_LEN if the whole stream does not fit an open chunk. -/
def execZlbBegin (N : Word) (s : State) : Result :=
  execute (.zlbBegin N)
    (firstError s.zOpen false (s.chkOpen && decide (zsize N.toNat > s.chkRem.toNat)))
    (performZlbBegin N) s

/-- `Perform(ZLB_DATA n)` (R188). -/
def performZlbData (n : Nat) (s : State) : State := (s.inDrop n).feedAll (s.inBytes n)

/-- ZLB_DATA n (R188): BAD_STATE if no stream is open, BAD_LEN if `n` exceeds what is expected. -/
def execZlbData (n : Nat) (s : State) : Result :=
  execute (.zlbData n) (firstError (!s.zOpen) false (decide (n > s.zRem.toNat))) (performZlbData n) s

/-- The empty final block of a stream that emitted no block header (R185, R189). -/
def emitEmptyBlock (s : State) : State :=
  if s.zHdr then s else { s.emitAll emptyBlock with zHdr := true }

/-- `Perform(ZLB_END)` (R189). -/
def performZlbEnd (s : State) : State :=
  { (emitEmptyBlock s).emitAll (be32 (adlerOut s.adlA s.adlB)) with zOpen := false }

/-- ZLB_END (R189): BAD_STATE if no stream is open, BAD_LEN if payload bytes are missing. -/
def execZlbEnd (s : State) : Result :=
  execute .zlbEnd (firstError (!s.zOpen) false (s.zRem != 0#32)) performZlbEnd s

end Sys2Proof.Machine
end

