-- ==== Sys2Proof/Machine/Dispatch.lean ====
section
/-! DEFINITION. One arm per command of 30_encoding.md R93. -/

namespace Sys2Proof.Machine

def exec (i : Instr) (s : State) : Host.Outcome State Fault Refusal :=
  match i with
  | .nop => Sys2Proof.Machine.execNop s
  | .srst => Sys2Proof.Machine.execSrst s
  | .raw n => Sys2Proof.Machine.execRaw n s
  | .crcInit => Sys2Proof.Machine.execCrcInit s
  | .crcFeed n => Sys2Proof.Machine.execCrcFeed n s
  | .crcPut => Sys2Proof.Machine.execCrcPut s
  | .adlInit => Sys2Proof.Machine.execAdlInit s
  | .adlFeed n => Sys2Proof.Machine.execAdlFeed n s
  | .adlPut => Sys2Proof.Machine.execAdlPut s
  | .zlbBegin N => Sys2Proof.Machine.execZlbBegin N s
  | .zlbData n => Sys2Proof.Machine.execZlbData n s
  | .zlbEnd => Sys2Proof.Machine.execZlbEnd s
  | .chkBegin L T => Sys2Proof.Machine.execChkBegin L T s
  | .chkData n => Sys2Proof.Machine.execChkData n s
  | .chkEnd => Sys2Proof.Machine.execChkEnd s
  | .fltCfg ch W => Sys2Proof.Machine.execFltCfg ch W s
  | .fltRows r => Sys2Proof.Machine.execFltRows r s

end Sys2Proof.Machine
end

