-- ==== Sys2Proof/Machine/Cycle.lean ====
section
/-! DEFINITION. Taking the next command from the command stream (30_encoding.md R92, 40_control.md R120, R121, R127), and
placing one where it is taken from. -/

namespace Sys2Proof.Machine

/-- The command words in order: those the assembler holds, then those in the command FIFO (10_state.md R28, R29). -/
def State.commandWords (s : State) : List Word := s.asmWords ++ s.cmdq

/-- The length the assembler expects of the command it holds words of, 1 to 3, set by word 0's opcode (R28, R92); none when
it holds none. -/
def State.expectedLength (s : State) : Option Nat := s.asmWords.head?.map commandLength

/-- The state once the words of the front command have been taken: the assembler is empty (70_reset_and_hazards.md R312)
and the command FIFO holds the rest. -/
def State.taken (rest : List Word) (s : State) : State := { s with asmWords := [], cmdq := rest }

/-- The words of a command not yet whole move into the assembler (R92; 70_reset_and_hazards.md R318). -/
def State.assemble (s : State) : State := { s with asmWords := s.commandWords, cmdq := [] }

/-- The command in execution has left the wait of R127. -/
def State.resume (s : State) : State := { s with current := none }

/-- One turn of the execution cycle: the command that waits for input, if there is one; otherwise the command at the front
of the command stream, as one atomic step (R121). With no whole command there, the words that are there are held. -/
def cycle (s : State) : Result :=
  match s.current with
  | some i => exec i s.resume
  | none =>
    match decode s.commandWords with
    | .incomplete => .next s.assemble
    | .illegal why w0 rest => executeIllegal why w0 (s.taken rest)
    | .command i rest => exec i (s.taken rest)

/-- `s` with these words at the front of the command stream, no command in execution and an empty assembler: what the next
step takes. -/
def State.withCommandWords (s : State) (ws : List Word) : State :=
  { s with current := none, asmWords := [], cmdq := ws ++ s.cmdq }

end Sys2Proof.Machine
end

