-- ==== Sys2Proof/Machine/Step.lean ====
section
/-! DEFINITION. The step, and placing an instruction where the step takes its next one. -/

namespace Sys2Proof.Machine

/-- One step of the block (40_control.md R121). -/
def step (s : State) : Host.Outcome State Fault Refusal := cycle s

/-- `s` with the instruction that a table word numbers at the front of the command stream. -/
def State.withFetchWord (s : State) (nbits w : Nat) : State := s.withCommandWords (tableCommand nbits w)

end Sys2Proof.Machine
end

