-- ==== Sys2Proof/Machine/Reference.lean ====
section
/-! DEFINITION. The source's functions, as the spec's rules give them (00_scope.md R2, R11): the byte sequences the block's
units are held to. Statements compare the machine with these; the machine does not call them. -/

namespace Sys2Proof.Machine

/-- `crc32(d)` (41_crc32.md R140, R142). -/
def crc32 (d : List Byte) : Word := d.foldl crcByte crcOnes ^^^ crcOnes

/-- `adler32(d)` (42_adler32.md R160, R162). -/
def adler32 (d : List Byte) : Word :=
  let sums := d.foldl adlByte (1#16, 0#16)
  adlerOut sums.1 sums.2

/-- The payload of stored block `k` of `d`: 65,535 bytes, the last block the remainder (43_zlib_framer.md R182). -/
def blockPayload (d : List Byte) (k : Nat) : List Byte := (d.drop (storedMax * k)).take storedMax

/-- Stored block `k` of `d` with its header, final exactly when it is the last (R182, R184). -/
def storedBlock (d : List Byte) (k : Nat) : List Byte :=
  storedHeader (decide (k + 1 = blockCount d.length)) (BitVec.ofNat 16 (blockPayload d k).length) ++ blockPayload d k

/-- `zlib_wrap(d)` (R180-R186): header, the `nb(|d|)` stored blocks, and the big-endian Adler-32. -/
def zlibWrap (d : List Byte) : List Byte :=
  zlibHeader ++ (List.range (blockCount d.length)).flatMap (storedBlock d) ++ be32 (adler32 d)

/-- `filter_scanlines` of a raster of `W` x `H` pixels (44_scanline_filter.md R210, R211): for each row the byte 0, then for
each pixel its first three channel bytes, at their row-major places. DESIGN CHOICE (log entry 15): a place past the end of the raster
reads 0. -/
def filterScanlines (ch4 : Bool) (W H : Nat) (raster : List Byte) : List Byte :=
  (List.range H).flatMap fun row =>
    0x00#8 :: (List.range W).flatMap fun p =>
      [raster.getD ((row * W + p) * channels ch4) 0#8,
       raster.getD ((row * W + p) * channels ch4 + 1) 0#8,
       raster.getD ((row * W + p) * channels ch4 + 2) 0#8]

/-- `BE32` of a number (00_scope.md R8); none for one that does not fit 32 bits, which "cannot be written"
(93_implementation_defined.md, section 1; log entry 16). -/
def be32OfNat (v : Nat) : Option (List Byte) := if v < 4294967296 then some (be32 (BitVec.ofNat 32 v)) else none

/-- `write_chunk(t, p)` (45_chunk_serializer.md R230); none for a payload whose length does not fit the 32-bit field. -/
def writeChunk (T : Word) (p : List Byte) : Option (List Byte) :=
  (be32OfNat p.length).map fun len => len ++ be32 T ++ p ++ be32 (crc32 (be32 T ++ p))

/-- The 8-byte signature (46_png_host_sequence.md R261). -/
def pngSignature : List Byte := [0x89#8, 0x50#8, 0x4E#8, 0x47#8, 0x0D#8, 0x0A#8, 0x1A#8, 0x0A#8]

/-- The tag "IHDR" (20_memory.md R64). -/
def tagIHDR : Word := 0x49484452#32

/-- The tag "IDAT". -/
def tagIDAT : Word := 0x49444154#32

/-- The tag "IEND". -/
def tagIEND : Word := 0x49454E44#32

/-- The 13 bytes of the IHDR payload (R262); none if the width or the height does not fit its 4 bytes. -/
def ihdrPayload (W H : Nat) : Option (List Byte) :=
  (be32OfNat W).bind fun w => (be32OfNat H).map fun h => w ++ h ++ [8#8, 2#8, 0#8, 0#8, 0#8]

/-- `encode_png` (R260): signature, IHDR, one IDAT, IEND; none if a size does not fit its field (R266). -/
def encodePng (ch4 : Bool) (W H : Nat) (raster : List Byte) : Option (List Byte) :=
  ((ihdrPayload W H).bind (writeChunk tagIHDR)).bind fun ihdr =>
  (writeChunk tagIDAT (zlibWrap (filterScanlines ch4 W H raster))).bind fun idat =>
  (writeChunk tagIEND []).map fun iend => pngSignature ++ ihdr ++ idat ++ iend

/-! ## The framer's stage on a list of payload bytes

What `FeedZ` emits and leaves in `z_blk` for a list of payload bytes, from `z_rem` = `rem` and `z_blk` = `blk`, in exact
arithmetic (20_memory.md R67). -/

/-- The bytes `FeedZ` gives to `EmitC` for payload bytes: each block's header just before its first byte (R67, R184). -/
def framedBytes (rem blk : Nat) : List Byte → List Byte
  | [] => []
  | x :: xs =>
    if blk = 0 then
      storedHeader (decide (rem ≤ storedMax)) (BitVec.ofNat 16 (min rem storedMax))
        ++ x :: framedBytes (rem - 1) (min rem storedMax - 1) xs
    else x :: framedBytes (rem - 1) (blk - 1) xs

/-- `z_blk` after `n` payload bytes (R67). -/
def blockLeft (rem blk : Nat) : Nat → Nat
  | 0 => blk
  | n + 1 => blockLeft (rem - 1) ((if blk = 0 then min rem storedMax else blk) - 1) n

/-- The state after the bytes `e` have gone through `EmitC` (R66), said at once: the output, and inside a chunk the CRC and
the count. -/
def State.emitted (s : State) (e : List Byte) : State :=
  { s with
    outq := s.outq ++ e
    crc := if s.chkOpen then e.foldl crcByte s.crc else s.crc
    chkRem := if s.chkOpen then s.chkRem - BitVec.ofNat 32 e.length else s.chkRem }

/-- The state after the payload bytes `p` have gone through `FeedZ` (R67), said at once. -/
def State.framed (s : State) (p : List Byte) : State :=
  let sums := p.foldl adlByte (s.adlA, s.adlB)
  { s.emitted (framedBytes s.zRem.toNat s.zBlk.toNat p) with
    adlA := sums.1
    adlB := sums.2
    zRem := s.zRem - BitVec.ofNat 32 p.length
    zBlk := BitVec.ofNat 16 (blockLeft s.zRem.toNat s.zBlk.toNat p.length)
    zHdr := s.zHdr || decide (p.length > s.zBlk.toNat) }

end Sys2Proof.Machine
end

