-- ==== Sys2Proof/Machine/Assembler.lean ====
section
/-! DEFINITION. The assembler's side of the command set: source lines and what the assembler refuses (30_encoding.md R100),
the pseudo-instructions (R101) and the PNG command sequence with its input (46_png_host_sequence.md R265). These are host
software; the machine does not call them. The characters of a line are not parsed: a line is its mnemonic and its
operands. -/

namespace Sys2Proof.Machine

/-- A source line of R100, with its operands as the numbers and the string written. -/
inductive AsmLine where
  | nop | srst | crcInit | crcPut | adlInit | adlPut | zlbEnd | chkEnd
  | raw (n : Nat) | crcFeed (n : Nat) | adlFeed (n : Nat) | zlbData (n : Nat) | chkData (n : Nat)
  | fltRows (r : Nat)
  | zlbBegin (N : Nat)
  | chkBegin (L : Nat) (tag : List Char)
  | fltCfg (ch W : Nat)
deriving DecidableEq, Repr

/-- `T = (c0<<24)|(c1<<16)|(c2<<8)|c3`; refused when it is not four characters (R100), or (DESIGN CHOICE, log entry 14) when
a character is no byte. -/
def assembleTag : List Char → Option Word
  | [c0, c1, c2, c3] =>
    if c0.toNat < 256 ∧ c1.toNat < 256 ∧ c2.toNat < 256 ∧ c3.toNat < 256 then
      some (BitVec.ofNat 32 (c0.toNat * 16777216 + c1.toNat * 65536 + c2.toNat * 256 + c3.toNat))
    else none
  | _ => none

/-- A number that must fit a 32-bit argument word (R100). -/
def assembleWord (v : Nat) : Option Word := if v < 4294967296 then some (BitVec.ofNat 32 v) else none

/-- A command whose count must fit IMM (R100). -/
def assembleImm (i : Instr) : Option Instr := if i.wf then some i else none

/-- The command a line assembles to; none where the assembler refuses it (R100). DESIGN CHOICE (log entry 18): R100 names no
refusal for a FLT_CFG `ch` that does not fit IMM's 24 bits; it is refused, as a count is. A `ch` that fits but is not 3 or 4
is left to the block (R94). -/
def assemble : AsmLine → Option Instr
  | .nop => some .nop
  | .srst => some .srst
  | .crcInit => some .crcInit
  | .crcPut => some .crcPut
  | .adlInit => some .adlInit
  | .adlPut => some .adlPut
  | .zlbEnd => some .zlbEnd
  | .chkEnd => some .chkEnd
  | .raw n => assembleImm (.raw n)
  | .crcFeed n => assembleImm (.crcFeed n)
  | .adlFeed n => assembleImm (.adlFeed n)
  | .zlbData n => assembleImm (.zlbData n)
  | .chkData n => assembleImm (.chkData n)
  | .fltRows r => assembleImm (.fltRows r)
  | .zlbBegin N => (assembleWord N).map .zlbBegin
  | .chkBegin L tag => (assembleWord L).bind fun l => (assembleTag tag).map (.chkBegin l)
  | .fltCfg ch W => (assembleWord W).bind fun w => assembleImm (.fltCfg ch w)

/-- The commands the lines assemble to, in order; none where the assembler refuses one of them (R100). -/
def assembleAll : List AsmLine → Option (List Instr)
  | [] => some []
  | line :: lines => (assemble line).bind fun i => (assembleAll lines).map fun is => i :: is

/-- The largest count of one command (00_scope.md R5). -/
def maxCount : Nat := 16777215

/-- `pieces(n)` (R101): `floor(n / 16777215)` full counts, then the remainder if it is not 0. -/
def pieces (n : Nat) : List Nat :=
  List.replicate (n / maxCount) maxCount ++ (if n % maxCount = 0 then [] else [n % maxCount])

/-- `OP* n`: one `OP k` per piece (R101). -/
def repeated (op : Nat → AsmLine) (n : Nat) : List AsmLine := (pieces n).map op

/-- The pseudo-instructions of R101. -/
inductive Pseudo where
  | raw (n : Nat) | crcFeed (n : Nat) | adlFeed (n : Nat) | zlbData (n : Nat) | chkData (n : Nat)
  | fltRows (r : Nat)
  | crc32 (n : Nat)
  | adler32 (n : Nat)
  | zlib (n : Nat)
  | chunk (tag : List Char) (n : Nat)
  | png (W H ch : Nat)
deriving DecidableEq, Repr

/-- The lines of R265 for a raster of `W` x `H` pixels with `ch` source channels. -/
def pngLines (W H ch : Nat) : List AsmLine :=
  [.raw 8, .chkBegin 13 ['I', 'H', 'D', 'R'], .chkData 13, .chkEnd, .fltCfg ch W,
   .chkBegin (zsize (filteredLength H W)) ['I', 'D', 'A', 'T'], .zlbBegin (filteredLength H W)]
  ++ repeated .fltRows H
  ++ [.zlbEnd, .chkEnd, .chkBegin 0 ['I', 'E', 'N', 'D'], .chkEnd]

/-- The command sequence of R265; none where a width or length does not fit its 32 bits: the host refuses (R266;
93_implementation_defined.md, section 1; log entry 17). -/
def pngCommands (W H ch : Nat) : Option (List Instr) := assembleAll (pngLines W H ch)

/-- The input bytes of R265, in order; none where the width or the height cannot be written. -/
def pngInput (W H : Nat) (raster : List Byte) : Option (List Byte) :=
  (ihdrPayload W H).map fun ihdr => pngSignature ++ ihdr ++ raster

/-- The lines a pseudo-instruction stands for (R101). -/
def Pseudo.lines : Pseudo → List AsmLine
  | .raw n => repeated .raw n
  | .crcFeed n => repeated .crcFeed n
  | .adlFeed n => repeated .adlFeed n
  | .zlbData n => repeated .zlbData n
  | .chkData n => repeated .chkData n
  | .fltRows r => repeated .fltRows r
  | .crc32 n => .crcInit :: repeated .crcFeed n
  | .adler32 n => .adlInit :: repeated .adlFeed n
  | .zlib n => .zlbBegin n :: repeated .zlbData n ++ [.zlbEnd]
  | .chunk tag n => .chkBegin n tag :: repeated .chkData n ++ [.chkEnd]
  | .png W H ch => pngLines W H ch

/-- The expansion of a pseudo-instruction (R101): the commands its lines assemble to, and refused where R100 refuses one of
them, so a length that does not fit 32 bits is refused (log entry 17). -/
def Pseudo.expand (p : Pseudo) : Option (List Instr) := assembleAll p.lines

end Sys2Proof.Machine
end

