-- ==== Sys2Proof/Config.lean ====
section
/-! DEFINITION. What the spec leaves open: the FIFO depths (00_scope.md R6) and the value a register read returns while
BUSY = 1 (10_state.md R42). All are constants without a body, so no proof can see their values. The parameters the
spec FIXES (R5) stand beside the operations that use them, in Decode.lean and Machine/. -/

namespace Sys2Proof.Config

/-- How far `CMD_FIFO_DEPTH` exceeds its minimum of 1 (R6). No rule of the spec reads it. -/
opaque cmdFifoExtra : Nat

/-- How far `IN_FIFO_DEPTH` exceeds its minimum of 1 (R6). No rule of the spec reads it. -/
opaque inFifoExtra : Nat

/-- How far `OUT_FIFO_DEPTH` exceeds its minimum of 1 (R6). No rule of the spec reads it. -/
opaque outFifoExtra : Nat

/-- `CMD_FIFO_DEPTH`, at least 1 (R6). -/
def cmdFifoDepth : Nat := cmdFifoExtra + 1

/-- `IN_FIFO_DEPTH`, at least 1 (R6). -/
def inFifoDepth : Nat := inFifoExtra + 1

/-- `OUT_FIFO_DEPTH`, at least 1 (R6). -/
def outFifoDepth : Nat := outFifoExtra + 1

/-- FREE VALUE (R42): what the read port returns on the host's `k`-th read transaction, at address `a`, for everything
R42 leaves unspecified while BUSY = 1: "a draw, a free 32-bit value under no law". Log entry 2. -/
opaque busyDraw : Nat → BitVec 3 → Word

end Sys2Proof.Config
end

