-- ==== Sys2Proof/Machine/Flags.lean ====
section
/-! DEFINITION. BUSY (10_state.md R30), STATUS (R34) and the register map (R33-R41), and a read transaction of the
register port, with its free value while BUSY = 1 (R42). -/

namespace Sys2Proof.Machine

/-- BUSY, derived (R30): the command FIFO is not empty, a command is partly assembled, or one is executing. -/
def State.busy (s : State) : Bool :=
  !s.cmdq.isEmpty || !s.asmWords.isEmpty || s.current.isSome

/-- The 4-bit code of R281. -/
def ErrCode.bits : ErrCode → BitVec 4
  | .noError => 0#4
  | .badOpcode => 1#4
  | .badRsvd => 2#4
  | .badState => 3#4
  | .badArg => 4#4
  | .badLen => 5#4

/-- A one-bit field at bit `k` of a register. -/
def flagAt (k : Nat) (f : Bool) : Word := if f then 1#32 <<< k else 0#32

/-- STATUS (R34). Bits 3:2 and 31:12 read 0. -/
def State.status (s : State) : Word :=
  flagAt 0 s.busy ||| flagAt 1 s.err ||| (s.errCode.bits.setWidth 32 <<< 4) ||| flagAt 8 s.chkOpen
    ||| flagAt 9 s.zOpen ||| flagAt 10 (s.fltW != 0#32) ||| flagAt 11 s.fltCh4

/-- The register at a word address, from the state (R33-R41). All 8 addresses are decoded (R32). -/
def State.register (s : State) (a : BitVec 3) : Word :=
  match a.toNat with
  | 0 => s.status
  | 1 => crcOut s.crc
  | 2 => adlerOut s.adlA s.adlB
  | 3 => s.chkRem
  | 4 => s.zRem
  | 5 => s.zBlk.setWidth 32 ||| flagAt 16 s.zHdr
  | 6 => s.fltW
  | _ => s.errCmd

/-- The host's `k`-th read transaction, at address `a` (R32, R42): exact while BUSY = 0; while BUSY = 1, STATUS.BUSY reads
1 and everything else is a free value. A read changes no state. -/
def State.readPort (s : State) (k : Nat) (a : BitVec 3) : Word :=
  if s.busy then
    if a = 0#3 then Config.busyDraw k a ||| 1#32 else Config.busyDraw k a
  else s.register a

end Sys2Proof.Machine
end

