-- ==== Sys2Proof/Machine/Ports.lean ====
section
/-! DEFINITION. What the host does to the block between steps (92_eei_decisions.md D2; 20_memory.md R60): it pushes command
words and input bytes, takes output bytes, reads registers (`State.readPort` in Flags.lean) and pulses `rst_n`. -/

namespace Sys2Proof.Machine

/-- A word accepted on the command port (R60 (a)). -/
def State.pushCommand (w : Word) (s : State) : State := { s with cmdq := s.cmdq ++ [w] }

/-- A byte accepted on the input port (R60 (b)). -/
def State.pushInput (b : Byte) (s : State) : State := { s with inq := s.inq ++ [b] }

/-- The host takes the oldest output byte, if there is one (R60 (c), 10_state.md R29). -/
def State.takeOutput (s : State) : Option (Byte × State) :=
  match s.outq with
  | [] => none
  | b :: rest => some (b, { s with outq := rest })

/-- Hardware reset by `rst_n` (70_reset_and_hazards.md R310): from any state, the reset state. What the FIFOs held is
lost. -/
def State.hardReset (_s : State) : State := State.reset

end Sys2Proof.Machine
end

