-- ==== Sys2Proof/Machine/Run.lean ====
section
/-! DEFINITION. A run of a command program: the block together with its host, the moves the two make, the end of the run and
its result (70_reset_and_hazards.md R324; log entry 19). The block's own step is Machine/Step.lean; nothing here adds to it. -/

namespace Sys2Proof.Machine

/-- The block and its host. Plain data. -/
structure System where
  /-- The block. -/
  block : State
  /-- Command words of the program that the host has still to push, in order. -/
  words : List Word
  /-- Input bytes that the host has still to push, in order. -/
  bytes : List Byte
  /-- Output bytes that the host has taken, in order. -/
  taken : List Byte
deriving DecidableEq, Repr

/-- What happens next: the block steps, or the host does one transfer on a port (20_memory.md R60). Which of them it is no
rule fixes (R323); a run is any list of moves. -/
inductive Move where
  /-- The block takes a step. -/
  | step
  /-- The host pushes its next command word. -/
  | pushCommand
  /-- The host pushes its next input byte. -/
  | pushInput
  /-- The host takes the oldest output byte. -/
  | takeOutput
deriving DecidableEq, Repr

/-- The block's state after a step; a step always answers a next state (log entry 11). -/
def State.stepped (s : State) : State :=
  match step s with
  | .next t => t
  | .fault _ => s
  | .refused _ => s

/-- The system after one move; a transfer with nothing to move changes nothing. -/
def System.move (y : System) : Move → System
  | .step => { y with block := y.block.stepped }
  | .pushCommand =>
    match y.words with
    | [] => y
    | w :: rest => { y with block := y.block.pushCommand w, words := rest }
  | .pushInput =>
    match y.bytes with
    | [] => y
    | b :: rest => { y with block := y.block.pushInput b, bytes := rest }
  | .takeOutput =>
    match y.block.takeOutput with
    | none => y
    | some (b, s) => { y with block := s, taken := y.taken ++ [b] }

/-- The system after a list of moves. -/
def System.run (y : System) (moves : List Move) : System := moves.foldl System.move y

/-- A program's words and input bytes in the host's hands, and the block after reset. -/
def System.start (words : List Word) (bytes : List Byte) : System :=
  { block := State.reset, words := words, bytes := bytes, taken := [] }

/-- The end of a run (R324): (a) the host has pushed its last command word, (b) BUSY = 0, (c) the host has taken every output
byte. -/
def System.ended (y : System) : Bool := y.words.isEmpty && !y.block.busy && y.block.outq.isEmpty

/-- The result of a run (R324). -/
structure RunResult where
  /-- "The output byte sequence". -/
  output : List Byte
  /-- "The register values", in the order of their addresses. -/
  registers : List Word
  /-- "`inq` (which must be empty for a well-formed program)". -/
  inq : List Byte
deriving DecidableEq, Repr

/-- The 8 registers in the order of their addresses (10_state.md R33). -/
def State.registers (s : State) : List Word := (List.range 8).map fun a => s.register (BitVec.ofNat 3 a)

/-- The result of a run that has ended; none before that (R324). -/
def System.result (y : System) : Option RunResult :=
  if y.ended then some { output := y.taken, registers := y.block.registers, inq := y.block.inq } else none

end Sys2Proof.Machine
end

