-- ==== Sys2Proof/Safety.lean ====
section
/-! DEFINITION. The terms statements are made in: the invariants (10_state.md R43, R27, R28), the table of checks of
60_exceptions.md R282 column by column, runs of several commands, waiting (40_control.md R127) and the end of a run
(70_reset_and_hazards.md R324). Every claim that a run completes takes "the host drains the output" as a premise
(R317): the model's `outq` is unbounded. -/

namespace Sys2Proof.Machine

/-! ## Invariants -/

/-- `blocks_left` of R43: stored blocks whose header is still to come. -/
def State.blocksLeft (s : State) : Nat := (s.zRem.toNat - s.zBlk.toNat + (storedMax - 1)) / storedMax

/-- The invariants of 10_state.md R43, in its order (`st.z_blk <= 65535` is its 16-bit width), and with them one that R25
gives and that makes them inductive: no block is in progress before the stream's first block header (log entry 4). -/
structure State.Inv (s : State) : Prop where
  adlA_le : s.adlA.toNat ≤ 65520
  adlB_le : s.adlB.toNat ≤ 65520
  zBlk_le : s.zBlk.toNat ≤ s.zRem.toNat
  closed_stream : s.zOpen = false → s.zBlk = 0#16 ∧ s.zRem = 0#32
  fits_chunk : s.zOpen = true → s.chkOpen = true →
    s.zRem.toNat + 5 * s.blocksLeft + 4 + (if s.zHdr = false ∧ s.zRem = 0#32 then 5 else 0) ≤ s.chkRem.toNat
  closed_chunk : s.chkOpen = false → s.chkRem = 0#32
  header_first : s.zHdr = false → s.zBlk = 0#16

/-- The error record (10_state.md R27, R41; 60_exceptions.md R281): a code is recorded exactly in the error state, and
without an error the recorded word is 0. -/
structure State.ErrorRecord (s : State) : Prop where
  code_iff : s.err = true ↔ s.errCode ≠ .noError
  no_command : s.err = false → s.errCmd = 0#32

/-- The BAD_STATE column of R282. -/
def badStateIf (i : Instr) (s : State) : Prop :=
  match i with
  | .nop | .srst => False
  | .raw _ => s.chkOpen = true ∨ s.zOpen = true
  | .crcInit | .crcFeed _ => s.chkOpen = true
  | .crcPut => s.chkOpen = true ∨ s.zOpen = true
  | .adlInit | .adlFeed _ => s.zOpen = true
  | .adlPut => s.chkOpen = true ∨ s.zOpen = true
  | .zlbBegin _ => s.zOpen = true
  | .zlbData _ | .zlbEnd => s.zOpen = false
  | .chkBegin _ _ => s.chkOpen = true ∨ s.zOpen = true
  | .chkData _ | .chkEnd => s.chkOpen = false ∨ s.zOpen = true
  | .fltCfg _ _ => False
  | .fltRows _ => s.fltW = 0#32

/-- The BAD_ARG column of R282. -/
def badArgIf (i : Instr) : Prop :=
  match i with
  | .chkBegin _ T =>
    ∃ b ∈ be32 T, ¬(0x41 ≤ b.toNat ∧ b.toNat ≤ 0x5A) ∧ ¬(0x61 ≤ b.toNat ∧ b.toNat ≤ 0x7A)
  | .fltCfg ch W => (ch ≠ 3 ∧ ch ≠ 4) ∨ W = 0#32
  | .nop | .srst | .raw _ | .crcInit | .crcFeed _ | .crcPut | .adlInit | .adlFeed _ | .adlPut => False
  | .zlbBegin _ | .zlbData _ | .zlbEnd | .chkData _ | .chkEnd | .fltRows _ => False

/-- The BAD_LEN column of R282, with `zsize` of R183 and `m = r * (1 + 3 * flt_w)`, exact. -/
def badLenIf (i : Instr) (s : State) : Prop :=
  match i with
  | .zlbBegin N => s.chkOpen = true ∧ s.chkRem.toNat < zsize N.toNat
  | .zlbData n => s.zRem.toNat < n
  | .zlbEnd => s.zRem ≠ 0#32
  | .chkData n => s.chkRem.toNat < n
  | .chkEnd => s.chkRem ≠ 0#32
  | .fltRows r =>
    (s.zOpen = true ∧ s.zRem.toNat < r * (1 + 3 * s.fltW.toNat)) ∨
    (s.zOpen = false ∧ s.chkOpen = true ∧ s.chkRem.toNat < r * (1 + 3 * s.fltW.toNat))
  | .nop | .srst | .raw _ | .crcInit | .crcFeed _ | .crcPut | .adlInit | .adlFeed _ | .adlPut => False
  | .chkBegin _ _ | .fltCfg _ _ => False

/-- No check of R282 fails. -/
def Passes (i : Instr) (s : State) : Prop := ¬badStateIf i s ∧ ¬badArgIf i ∧ ¬badLenIf i s

/-- `raise Error(code)` by the command `i` (60_exceptions.md R283): the flag, the code and word 0 of the command, and
nothing else. -/
def FailsWith (i : Instr) (s : State) (code : ErrCode) : Prop :=
  exec i s = .next { s with err := true, errCode := code, errCmd := i.word0 }

/-- A whole command at the front of the command stream, outside the error state, with this OPC and a non-zero IMM, records
BAD_RSVD and its word 0, and nothing else (30_encoding.md R97; R283). -/
def RsvdChecked (opc : BitVec 8) : Prop :=
  ∀ (s : State) (w0 : Word) (ws : List Word), s.err = false → s.current = none → s.commandWords = w0 :: ws →
    opcOf w0 = opc → immOf w0 ≠ 0#24 → commandLength w0 ≤ ws.length + 1 →
    step s = .next { s with
      asmWords := [], cmdq := (w0 :: ws).drop (commandLength w0), err := true, errCode := .badRsvd, errCmd := w0 }

/-- The command assembler holds no whole command (R28), and a command in execution is one that could be encoded, that
passed its checks, outside the error state (R121, R127). -/
structure State.FetchInv (s : State) : Prop where
  partly : decode s.asmWords = .incomplete
  current_ok : ∀ i, s.current = some i → i.wf = true ∧ s.err = false ∧ Passes i s

/-! ## Runs -/

/-- The state an outcome leads to, if it is a next state. -/
def nextState : Result → Option State
  | .next s => some s
  | .fault _ => none
  | .refused _ => none

/-- Commands executed one after the other (40_control.md R120). -/
def execAll : List Instr → State → Result
  | [], s => .next s
  | i :: is, s =>
    match exec i s with
    | .next s' => execAll is s'
    | .fault r => .fault r
    | .refused r => .refused r

/-- The block waits for input bytes (R127): a command is in execution and its bytes are not all there. -/
def State.Waiting (s : State) : Prop :=
  ∃ i, s.current = some i ∧ s.inq.length < needBytes i s

/-- What the host must check before it pushes anything, because the block cannot (46_png_host_sequence.md R266;
92_eei_decisions.md D30): a raster with pixels, of exactly `W` x `H` pixels of `ch` bytes, and an IDAT length that fits 32
bits. -/
structure PngPreconditions (W H ch : Nat) (raster : List Byte) : Prop where
  width_pos : 1 ≤ W
  height_pos : 1 ≤ H
  raster_length : raster.length = H * W * ch
  idat_fits : zsize (H * (1 + 3 * W)) ≤ 4294967295

/-- The block waits for argument words (70_reset_and_hazards.md R318): words of a command are there, and not all of them. -/
def State.WaitingForWords (s : State) : Prop :=
  s.current = none ∧ s.commandWords ≠ [] ∧ decode s.commandWords = .incomplete

/-- R324 (b) and (c), on the block alone: BUSY = 0 and no output byte is left to take. With (a), the host has pushed its last
word, it is `System.ended`. -/
def State.RunEnded (s : State) : Prop := s.busy = false ∧ s.outq = []

/-- "A run that never reaches BUSY = 0 is a hang" (R324): whatever the block and the host do next. -/
def System.Hangs (y : System) : Prop := ∀ moves : List Move, (y.run moves).block.busy = true

/-- A safe run's state: no command has failed (R324: "a claim must state ERR = 0"). -/
def State.Safe (s : State) : Prop := s.err = false

end Sys2Proof.Machine
end

