-- ==== Sys2Proof/Certificates/Slice0/Obligations.lean ====
section
/-! DEFINITION. The statements for the provers. Each docstring names the rules of spec/ it formalises. Statements about what
a run completes take "the host drains the output" as a premise (70_reset_and_hazards.md R317): the model's output is
unbounded. -/

open Sys2Proof Sys2Proof.Machine

/-! ## Encoding -/

/-- Decode and encode agree (30_encoding.md R90, R91, R93-R95): every command with every operand its fields admit, whatever
words follow it. -/
def Obligations.EncodedCommandDecodesBack : Prop :=
  ∀ (i : Instr) (rest : List Word), i.wf = true → decode (encode i ++ rest) = .command i rest

/-- The other direction: what the decoder reads as a command are exactly that command's words, so no word has two readings
and no bit is dropped (R90-R95). -/
def Obligations.DecodedWordsAreTheEncoding : Prop :=
  ∀ (ws rest : List Word) (i : Instr), decode ws = .command i rest → i.wf = true ∧ ws = encode i ++ rest

/-- R92: the opcode alone sets the length; with no command in execution, in the error state too, a step takes exactly that
many words of the front command once they are all there. That a step before that moves the words that are there into the
assembler, all at once, is the model's choice (log entries 1 and 6). -/
def Obligations.OpcodeSetsCommandLength : Prop :=
  (∀ w0 : Word, commandLength w0 =
    if opcOf w0 = 0x30#8 ∨ opcOf w0 = 0x50#8 then 2 else if opcOf w0 = 0x40#8 then 3 else 1) ∧
  ∀ (s : State) (w0 : Word) (ws : List Word), s.current = none → s.commandWords = w0 :: ws →
    (ws.length + 1 < commandLength w0 → step s = .next { s with asmWords := w0 :: ws, cmdq := [] }) ∧
    (commandLength w0 ≤ ws.length + 1 →
      ∃ t, step s = .next t ∧ t.asmWords = [] ∧ t.cmdq = (w0 :: ws).drop (commandLength w0))

/-- R96: the reserved opcodes, that there are 239 of them, that each is one word long, and that one executed raises
BAD_OPCODE whatever its IMM. -/
def Obligations.ReservedOpcodeRaisesBadOpcode : Prop :=
  (∀ b : BitVec 8, lookupOpcode b = none ↔
    (0x03 ≤ b.toNat ∧ b.toNat ≤ 0x0F) ∨ (0x13 ≤ b.toNat ∧ b.toNat ≤ 0x1F) ∨
    (0x23 ≤ b.toNat ∧ b.toNat ≤ 0x2F) ∨ (0x33 ≤ b.toNat ∧ b.toNat ≤ 0x3F) ∨
    (0x43 ≤ b.toNat ∧ b.toNat ≤ 0x4F) ∨ (0x52 ≤ b.toNat)) ∧
  ((List.range 256).filter fun n => lookupOpcode (BitVec.ofNat 8 n) = none).length = 239 ∧
  ∀ (s : State) (w0 : Word) (ws : List Word), s.err = false → s.current = none → s.commandWords = w0 :: ws →
    lookupOpcode (opcOf w0) = none →
    step s = .next { s with asmWords := [], cmdq := ws, err := true, errCode := .badOpcode, errCmd := w0 }

/-- R97: every defined F0 or FT command, and ZLB_BEGIN, with an IMM that is not 0. -/
def Obligations.NonzeroReservedImmRaisesBadRsvd : Prop :=
  ∀ o : Opcode, (o.format = .f0 ∨ o.format = .ft ∨ o = .zlbBegin) → RsvdChecked o.code

/-- Words written out from R93 and R95: SRST, RAW 8, ADL_FEED 16777215, ZLB_BEGIN 65536, CHK_BEGIN 13 "IHDR", FLT_CFG 4, 2,
the non-zero reserved IMM of NOP, a reserved opcode, and a command one word short. -/
def Obligations.SampleWordsDecode : Prop :=
  decode [0x01000000#32] = .command .srst [] ∧
  decode [0x02000008#32] = .command (.raw 8) [] ∧
  decode [0x21FFFFFF#32] = .command (.adlFeed 16777215) [] ∧
  decode [0x30000000#32, 0x00010000#32] = .command (.zlbBegin 0x00010000#32) [] ∧
  decode [0x40000000#32, 0x0000000D#32, 0x49484452#32] = .command (.chkBegin 13#32 0x49484452#32) [] ∧
  decode [0x50000004#32, 0x00000002#32] = .command (.fltCfg 4 2#32) [] ∧
  decode [0x00000001#32] = .illegal .reservedImm 0x00000001#32 [] ∧
  decode [0xFF123456#32] = .illegal .reservedOpcode 0xFF123456#32 [] ∧
  decode [0x40000000#32, 0x0000000D#32] = .incomplete

/-! ## The execution cycle -/

/-- R120, R121: with no command in execution, a step is `exec` of the command at the front of the command words, at the
state with its words taken; with one in execution (it waits for input), a step is `exec` of that one. -/
def Obligations.StepRunsTheDecodedCommand : Prop :=
  (∀ (s : State) (i : Instr) (rest : List Word), s.current = none → decode s.commandWords = .command i rest →
    step s = exec i { s with asmWords := [], cmdq := rest }) ∧
  (∀ (s : State) (i : Instr), s.current = some i → step s = exec i { s with current := none })

/-- R127: a command that passes its checks and lacks input bytes has no effect but to stay in execution; while it lacks
them a step changes nothing; a command that needs none never waits. That a hang is a step that changes nothing is the
model's choice (log entry 1). -/
def Obligations.CommandWaitsForItsInput : Prop :=
  (∀ (i : Instr) (s : State), s.err = false → Passes i s → s.inq.length < needBytes i s →
    exec i s = .next { s with current := some i }) ∧
  (∀ (i : Instr) (s : State), s.err = false → Passes i s → s.inq.length < needBytes i s →
    s.current = some i → step s = .next s) ∧
  (∀ (i : Instr) (s : State), needBytes i s = 0 → ∃ t, exec i s = .next t ∧ t.current = s.current)

/-- R121, the table of `Need(w)`. -/
def Obligations.NeedOfEachCommand : Prop :=
  ∀ s : State,
    (∀ n : Nat, needBytes (.raw n) s = n ∧ needBytes (.crcFeed n) s = n ∧ needBytes (.adlFeed n) s = n ∧
      needBytes (.zlbData n) s = n ∧ needBytes (.chkData n) s = n) ∧
    (∀ r : Nat, needBytes (.fltRows r) s = r * s.fltW.toNat * (if s.fltCh4 then 4 else 3)) ∧
    (∀ i : Instr, i.opcode.format ≠ .fn → needBytes i s = 0)

/-- R296 (and 70_reset_and_hazards.md R313): with no command pending the block holds all its state. -/
def Obligations.IdleBlockHoldsItsState : Prop :=
  ∀ s : State, s.busy = false → step s = .next s

/-- 60_exceptions.md R280, R289: errors and waits are no end of the machine; from every state a step answers a next
state. -/
def Obligations.BlockNeverStops : Prop :=
  ∀ s : State, ∃ t, step s = .next t

/-! ## Errors -/

/-- R283: whichever check fails, in the order of R284, the command records the code and its word 0 and does nothing else;
so does a word the decoder rejects. -/
def Obligations.FailingCheckRecordsOnlyTheError : Prop :=
  (∀ (i : Instr) (s : State), s.err = false →
    (badStateIf i s → FailsWith i s .badState) ∧
    (¬badStateIf i s → badArgIf i → FailsWith i s .badArg) ∧
    (¬badStateIf i s → ¬badArgIf i → badLenIf i s → FailsWith i s .badLen)) ∧
  (∀ (s : State) (why : Illegal) (w0 : Word) (rest : List Word), s.err = false → s.current = none →
    decode s.commandWords = .illegal why w0 rest →
    step s = .next { s with
      asmWords := [], cmdq := rest, err := true, errCmd := w0,
      errCode := match why with
        | .reservedOpcode => .badOpcode
        | .reservedImm => .badRsvd })

/-- R122: a failing command has no effect except the error record, a passing command cannot fail, and which of the two it
is depends on no input or output byte. -/
def Obligations.CommandsArePrecise : Prop :=
  ∀ (i : Instr) (s : State), s.err = false →
    (¬Passes i s → ∃ code, code ≠ .noError ∧ FailsWith i s code) ∧
    (Passes i s → ∃ t, exec i s = .next t ∧ t.err = false) ∧
    ∀ x o : List Byte, Passes i { s with inq := x, outq := o } ↔ Passes i s

/-- R123 and R286: in the error state every command but SRST is discarded, and every whole command at the front but the
word 0x01000000 is taken and discarded with its argument words; nothing else changes, `inq` and the error record among it.
The word 0x01000000 leaves the error state. -/
def Obligations.ErrorStateDiscardsAllButSrst : Prop :=
  (∀ (i : Instr) (s : State), s.err = true → i ≠ .srst → exec i s = .next s) ∧
  (∀ (s : State) (w0 : Word) (ws : List Word), s.err = true → s.current = none → s.commandWords = w0 :: ws →
    commandLength w0 ≤ ws.length + 1 → w0 ≠ 0x01000000#32 →
    step s = .next { s with asmWords := [], cmdq := (w0 :: ws).drop (commandLength w0) }) ∧
  (∀ (s : State) (ws : List Word), s.err = true → s.current = none → s.commandWords = 0x01000000#32 :: ws →
    ∃ t, step s = .next t ∧ t.err = false ∧ t.cmdq = ws)

/-- R288 (with R287): from the error state, a step keeps the first error, or it ran SRST. -/
def Obligations.FirstErrorIsKept : Prop :=
  ∀ s t : State, s.err = true → step s = .next t →
    (t.err = true ∧ t.errCode = s.errCode ∧ t.errCmd = s.errCmd) ∨
    (t.err = false ∧ (s.current = some .srst ∨
      (s.current = none ∧ ∃ ws, s.commandWords = 0x01000000#32 :: ws)))

/-! ## Registers and reset -/

/-- R30: the three grounds of BUSY. -/
def Obligations.BusyHasThreeGrounds : Prop :=
  ∀ s : State, s.busy = true ↔ (s.cmdq ≠ [] ∨ s.asmWords ≠ [] ∨ ∃ i, s.current = some i)

/-- R34: every field of STATUS, the bits that read 0, and the reset value; with the numbers of the six codes that
60_exceptions.md R281 puts in ERR_CODE. -/
def Obligations.StatusFields : Prop :=
  (∀ s : State,
    s.status.getLsbD 0 = s.busy ∧ s.status.getLsbD 1 = s.err ∧
    s.status.extractLsb' 2 2 = 0#2 ∧ s.status.extractLsb' 4 4 = s.errCode.bits ∧
    s.status.getLsbD 8 = s.chkOpen ∧ s.status.getLsbD 9 = s.zOpen ∧
    s.status.getLsbD 10 = decide (s.fltW ≠ 0#32) ∧ s.status.getLsbD 11 = s.fltCh4 ∧
    s.status.extractLsb' 12 20 = 0#20) ∧
  (∀ s : State,
    (s.errCode = .noError → s.status.extractLsb' 4 4 = 0#4) ∧
    (s.errCode = .badOpcode → s.status.extractLsb' 4 4 = 1#4) ∧
    (s.errCode = .badRsvd → s.status.extractLsb' 4 4 = 2#4) ∧
    (s.errCode = .badState → s.status.extractLsb' 4 4 = 3#4) ∧
    (s.errCode = .badArg → s.status.extractLsb' 4 4 = 4#4) ∧
    (s.errCode = .badLen → s.status.extractLsb' 4 4 = 5#4)) ∧
  State.reset.status = 0#32

/-- R33, R37-R40: what each address reads while BUSY = 0, on every read. -/
def Obligations.RegisterMapReads : Prop :=
  ∀ (s : State) (k : Nat), s.busy = false →
    s.readPort k 0#3 = s.status ∧
    s.readPort k 1#3 = s.crc ^^^ 0xFFFFFFFF#32 ∧
    (s.readPort k 2#3).extractLsb' 0 16 = s.adlA ∧ (s.readPort k 2#3).extractLsb' 16 16 = s.adlB ∧
    s.readPort k 3#3 = s.chkRem ∧
    s.readPort k 4#3 = s.zRem ∧
    (s.readPort k 5#3).extractLsb' 0 16 = s.zBlk ∧ (s.readPort k 5#3).getLsbD 16 = s.zHdr ∧
      (s.readPort k 5#3).extractLsb' 17 15 = 0#15 ∧
    s.readPort k 6#3 = s.fltW ∧
    s.readPort k 7#3 = s.errCmd

/-- R42: while BUSY = 1, STATUS.BUSY reads 1 and every other bit of every register is the free value's; while BUSY = 0 a
read is the register. That the free value is `Config.busyDraw` of the read's number and address, and that it covers the
STATUS bits hardwired to 0 too, is the model's reading of R42 (log entry 2). -/
def Obligations.BusyReadsAreUnspecified : Prop :=
  ∀ (s : State) (k : Nat) (a : BitVec 3),
    (s.busy = true → (s.readPort k 0#3).getLsbD 0 = true) ∧
    (s.busy = true → ∀ j, 1 ≤ j → (s.readPort k 0#3).getLsbD j = (Config.busyDraw k 0#3).getLsbD j) ∧
    (s.busy = true → a ≠ 0#3 → s.readPort k a = Config.busyDraw k a) ∧
    (s.busy = false → s.readPort k a = s.register a)

/-- R44, R310: hardware reset sets every field of the table of R44 and empties the assembler and the FIFOs; SRST sets the
same fields and touches none of the FIFOs. -/
def Obligations.ResetValues : Prop :=
  ∀ s : State,
    s.hardReset =
      { crc := 0xFFFFFFFF#32, adlA := 1#16, adlB := 0#16, chkOpen := false, chkRem := 0#32, zOpen := false,
        zRem := 0#32, zBlk := 0#16, zHdr := false, fltW := 0#32, fltCh4 := false, err := false,
        errCode := .noError, errCmd := 0#32, asmWords := [], current := none, cmdq := [], inq := [], outq := [] } ∧
    exec .srst s = .next { s.hardReset with
      asmWords := s.asmWords, current := s.current, cmdq := s.cmdq, inq := s.inq, outq := s.outq }

/-- R311: the registers after reset. -/
def Obligations.RegistersAfterReset : Prop :=
  ∀ k : Nat,
    State.reset.readPort k 0#3 = 0#32 ∧ State.reset.readPort k 1#3 = 0#32 ∧ State.reset.readPort k 2#3 = 1#32 ∧
    State.reset.readPort k 3#3 = 0#32 ∧ State.reset.readPort k 4#3 = 0#32 ∧ State.reset.readPort k 5#3 = 0#32 ∧
    State.reset.readPort k 6#3 = 0#32 ∧ State.reset.readPort k 7#3 = 0#32

/-! ## One statement per command: its encoding, its errors, its effect, and its frame

The effect is the whole next state: every field that the update does not name is unchanged. -/

/-- NOP (40_control.md R124). -/
def Obligations.NopChangesNothing : Prop :=
  encode .nop = [0x00000000#32] ∧ RsvdChecked 0x00#8 ∧ ∀ s : State, exec .nop s = .next s

/-- SRST (40_control.md R125): every field of R44, in and out of the error state; the streams are not touched. Outside the
error state a non-zero IMM is BAD_RSVD; inside it any other word with OPC 0x01 is discarded. -/
def Obligations.SrstResetsEveryField : Prop :=
  encode .srst = [0x01000000#32] ∧ RsvdChecked 0x01#8 ∧
  (∀ s : State, exec .srst s = .next
    { crc := 0xFFFFFFFF#32, adlA := 1#16, adlB := 0#16, chkOpen := false, chkRem := 0#32, zOpen := false,
      zRem := 0#32, zBlk := 0#16, zHdr := false, fltW := 0#32, fltCh4 := false, err := false,
      errCode := .noError, errCmd := 0#32, asmWords := s.asmWords, current := s.current, cmdq := s.cmdq,
      inq := s.inq, outq := s.outq }) ∧
  (∀ (s : State) (w0 : Word) (ws : List Word), s.err = true → s.current = none → s.commandWords = w0 :: ws →
    opcOf w0 = 0x01#8 → w0 ≠ 0x01000000#32 → step s = .next { s with asmWords := [], cmdq := ws })

/-- RAW n (40_control.md R126). -/
def Obligations.RawPassesBytesThrough : Prop :=
  (∀ n : Nat, n < 16777216 → encode (.raw n) = [BitVec.ofNat 32 (0x02000000 + n)]) ∧
  ∀ (n : Nat) (s : State), s.err = false →
    (s.chkOpen = true ∨ s.zOpen = true → FailsWith (.raw n) s .badState) ∧
    (s.chkOpen = false → s.zOpen = false → n ≤ s.inq.length →
      exec (.raw n) s = .next { s with inq := s.inq.drop n, outq := s.outq ++ s.inq.take n })

/-- CRC_INIT (41_crc32.md R143), legal with a stream open. CRC_VALUE then reads 0. -/
def Obligations.CrcInitStartsANewCrc : Prop :=
  encode .crcInit = [0x10000000#32] ∧ RsvdChecked 0x10#8 ∧
  ∀ s : State, s.err = false →
    (s.chkOpen = true → FailsWith .crcInit s .badState) ∧
    (s.chkOpen = false → exec .crcInit s = .next { s with crc := 0xFFFFFFFF#32 } ∧
      ({ s with crc := 0xFFFFFFFF#32 } : State).register 1#3 = 0#32)

/-- CRC_FEED n (41_crc32.md R144): consumes and emits nothing. -/
def Obligations.CrcFeedFoldsItsBytes : Prop :=
  (∀ n : Nat, n < 16777216 → encode (.crcFeed n) = [BitVec.ofNat 32 (0x11000000 + n)]) ∧
  ∀ (n : Nat) (s : State), s.err = false →
    (s.chkOpen = true → FailsWith (.crcFeed n) s .badState) ∧
    (s.chkOpen = false → n ≤ s.inq.length →
      exec (.crcFeed n) s = .next { s with inq := s.inq.drop n, crc := (s.inq.take n).foldl crcByte s.crc })

/-- CRC_PUT (41_crc32.md R145): big-endian, `st.crc` unchanged. -/
def Obligations.CrcPutEmitsTheCrc : Prop :=
  encode .crcPut = [0x12000000#32] ∧ RsvdChecked 0x12#8 ∧
  ∀ s : State, s.err = false →
    (s.chkOpen = true ∨ s.zOpen = true → FailsWith .crcPut s .badState) ∧
    (s.chkOpen = false → s.zOpen = false →
      exec .crcPut s = .next { s with outq := s.outq ++ be32 (s.crc ^^^ 0xFFFFFFFF#32) })

/-- ADL_INIT (42_adler32.md R163), legal with a chunk open. ADLER_VALUE then reads 1. -/
def Obligations.AdlInitStartsNewSums : Prop :=
  encode .adlInit = [0x20000000#32] ∧ RsvdChecked 0x20#8 ∧
  ∀ s : State, s.err = false →
    (s.zOpen = true → FailsWith .adlInit s .badState) ∧
    (s.zOpen = false → exec .adlInit s = .next { s with adlA := 1#16, adlB := 0#16 } ∧
      ({ s with adlA := 1#16, adlB := 0#16 } : State).register 2#3 = 1#32)

/-- ADL_FEED n (42_adler32.md R164, with R161's update written out). -/
def Obligations.AdlFeedFoldsItsBytes : Prop :=
  (∀ n : Nat, n < 16777216 → encode (.adlFeed n) = [BitVec.ofNat 32 (0x21000000 + n)]) ∧
  (∀ (a b : BitVec 16) (x : Byte), a.toNat ≤ 65520 → b.toNat ≤ 65520 →
    (adlByte (a, b) x).1.toNat = (a.toNat + x.toNat) % 65521 ∧
    (adlByte (a, b) x).2.toNat = (b.toNat + (a.toNat + x.toNat) % 65521) % 65521) ∧
  ∀ (n : Nat) (s : State), s.err = false →
    (s.zOpen = true → FailsWith (.adlFeed n) s .badState) ∧
    (s.zOpen = false → n ≤ s.inq.length →
      exec (.adlFeed n) s = .next { s with
        inq := s.inq.drop n
        adlA := ((s.inq.take n).foldl adlByte (s.adlA, s.adlB)).1
        adlB := ((s.inq.take n).foldl adlByte (s.adlA, s.adlB)).2 })

/-- ADL_PUT (42_adler32.md R165): big-endian, `b` then `a`, the sums unchanged. -/
def Obligations.AdlPutEmitsTheSums : Prop :=
  encode .adlPut = [0x22000000#32] ∧ RsvdChecked 0x22#8 ∧
  ∀ s : State, s.err = false →
    (s.chkOpen = true ∨ s.zOpen = true → FailsWith .adlPut s .badState) ∧
    (s.chkOpen = false → s.zOpen = false →
      exec .adlPut s = .next { s with outq := s.outq ++
        [s.adlB.extractLsb' 8 8, s.adlB.extractLsb' 0 8, s.adlA.extractLsb' 8 8, s.adlA.extractLsb' 0 8] })

/-- ZLB_BEGIN N (43_zlib_framer.md R187): with no chunk open there is no length check, and the header goes to the output;
with one, the whole stream must fit, and the header is chunk payload. -/
def Obligations.ZlbBeginOpensAStream : Prop :=
  (∀ N : Word, encode (.zlbBegin N) = [0x30000000#32, N]) ∧ RsvdChecked 0x30#8 ∧
  ∀ (N : Word) (s : State), s.err = false →
    (s.zOpen = true → FailsWith (.zlbBegin N) s .badState) ∧
    (s.zOpen = false → s.chkOpen = true → s.chkRem.toNat < zsize N.toNat → FailsWith (.zlbBegin N) s .badLen) ∧
    (s.zOpen = false → s.chkOpen = false →
      exec (.zlbBegin N) s = .next { s with
        adlA := 1#16, adlB := 0#16, zOpen := true, zRem := N, zBlk := 0#16, zHdr := false,
        outq := s.outq ++ [0x78#8, 0x01#8] }) ∧
    (s.zOpen = false → s.chkOpen = true → zsize N.toNat ≤ s.chkRem.toNat →
      exec (.zlbBegin N) s = .next { s with
        adlA := 1#16, adlB := 0#16, zOpen := true, zRem := N, zBlk := 0#16, zHdr := false,
        outq := s.outq ++ [0x78#8, 0x01#8],
        crc := crcByte (crcByte s.crc 0x78#8) 0x01#8, chkRem := s.chkRem - 2#32 })

/-- ZLB_DATA n (43_zlib_framer.md R188, with `FeedZ` of 20_memory.md R67 said for the whole list of payload bytes:
`framedBytes` is what it emits, `blockLeft` what it leaves in `z_blk`). The emitted bytes are chunk payload if a chunk is
open. The five header bytes of a block are R184's: the final flag, LEN and its complement, low bytes first. -/
def Obligations.ZlbDataFramesItsBytes : Prop :=
  (∀ n : Nat, n < 16777216 → encode (.zlbData n) = [BitVec.ofNat 32 (0x31000000 + n)]) ∧
  (∀ (final : Bool) (len : BitVec 16), storedHeader final len =
    [if final = true then 0x01#8 else 0x00#8, len.extractLsb' 0 8, len.extractLsb' 8 8,
      (~~~len).extractLsb' 0 8, (~~~len).extractLsb' 8 8]) ∧
  ∀ (n : Nat) (s : State), s.err = false →
    (s.zOpen = false → FailsWith (.zlbData n) s .badState) ∧
    (s.zOpen = true → s.zRem.toNat < n → FailsWith (.zlbData n) s .badLen) ∧
    (s.zOpen = true → n ≤ s.zRem.toNat → n ≤ s.inq.length →
      exec (.zlbData n) s = .next { s with
        inq := s.inq.drop n
        outq := s.outq ++ framedBytes s.zRem.toNat s.zBlk.toNat (s.inq.take n)
        crc := if s.chkOpen = true then
            (framedBytes s.zRem.toNat s.zBlk.toNat (s.inq.take n)).foldl crcByte s.crc else s.crc
        chkRem := if s.chkOpen = true then
            s.chkRem - BitVec.ofNat 32 (framedBytes s.zRem.toNat s.zBlk.toNat (s.inq.take n)).length else s.chkRem
        adlA := ((s.inq.take n).foldl adlByte (s.adlA, s.adlB)).1
        adlB := ((s.inq.take n).foldl adlByte (s.adlA, s.adlB)).2
        zRem := s.zRem - BitVec.ofNat 32 n
        zBlk := BitVec.ofNat 16 (blockLeft s.zRem.toNat s.zBlk.toNat n)
        zHdr := s.zHdr || decide (s.zBlk.toNat < n) })

/-- ZLB_END (43_zlib_framer.md R189): the empty final block if no block header was emitted, then the trailer; the sums are
kept. -/
def Obligations.ZlbEndClosesTheStream : Prop :=
  encode .zlbEnd = [0x32000000#32] ∧ RsvdChecked 0x32#8 ∧
  ∀ (s : State) (e : List Byte), s.err = false →
    e = (if s.zHdr = true then [] else [0x01#8, 0x00#8, 0x00#8, 0xFF#8, 0xFF#8]) ++
      [s.adlB.extractLsb' 8 8, s.adlB.extractLsb' 0 8, s.adlA.extractLsb' 8 8, s.adlA.extractLsb' 0 8] →
    (s.zOpen = false → FailsWith .zlbEnd s .badState) ∧
    (s.zOpen = true → s.zRem ≠ 0#32 → FailsWith .zlbEnd s .badLen) ∧
    (s.zOpen = true → s.zRem = 0#32 → s.chkOpen = false →
      exec .zlbEnd s = .next { s with zOpen := false, zHdr := true, outq := s.outq ++ e }) ∧
    (s.zOpen = true → s.zRem = 0#32 → s.chkOpen = true →
      exec .zlbEnd s = .next { s with
        zOpen := false, zHdr := true, outq := s.outq ++ e,
        crc := e.foldl crcByte s.crc, chkRem := s.chkRem - BitVec.ofNat 32 e.length })

/-- CHK_BEGIN L, T (45_chunk_serializer.md R234): length and tag to the output, the tag alone into the CRC. -/
def Obligations.ChkBeginOpensAChunk : Prop :=
  (∀ L T : Word, encode (.chkBegin L T) = [0x40000000#32, L, T]) ∧ RsvdChecked 0x40#8 ∧
  ∀ (L T : Word) (s : State), s.err = false →
    (s.chkOpen = true ∨ s.zOpen = true → FailsWith (.chkBegin L T) s .badState) ∧
    (s.chkOpen = false → s.zOpen = false → badArgIf (.chkBegin L T) → FailsWith (.chkBegin L T) s .badArg) ∧
    (s.chkOpen = false → s.zOpen = false → ¬badArgIf (.chkBegin L T) →
      exec (.chkBegin L T) s = .next { s with
        outq := s.outq ++ be32 L ++ be32 T, crc := (be32 T).foldl crcByte 0xFFFFFFFF#32,
        chkRem := L, chkOpen := true })

/-- CHK_DATA n (45_chunk_serializer.md R235). -/
def Obligations.ChkDataIsPayload : Prop :=
  (∀ n : Nat, n < 16777216 → encode (.chkData n) = [BitVec.ofNat 32 (0x41000000 + n)]) ∧
  ∀ (n : Nat) (s : State), s.err = false →
    (s.chkOpen = false ∨ s.zOpen = true → FailsWith (.chkData n) s .badState) ∧
    (s.chkOpen = true → s.zOpen = false → s.chkRem.toNat < n → FailsWith (.chkData n) s .badLen) ∧
    (s.chkOpen = true → s.zOpen = false → n ≤ s.chkRem.toNat → n ≤ s.inq.length →
      exec (.chkData n) s = .next { s with
        inq := s.inq.drop n, outq := s.outq ++ s.inq.take n,
        crc := (s.inq.take n).foldl crcByte s.crc, chkRem := s.chkRem - BitVec.ofNat 32 n })

/-- CHK_END (45_chunk_serializer.md R236): the CRC to the output, `st.crc` kept. -/
def Obligations.ChkEndEmitsTheChunkCrc : Prop :=
  encode .chkEnd = [0x42000000#32] ∧ RsvdChecked 0x42#8 ∧
  ∀ s : State, s.err = false →
    (s.chkOpen = false ∨ s.zOpen = true → FailsWith .chkEnd s .badState) ∧
    (s.chkOpen = true → s.zOpen = false → s.chkRem ≠ 0#32 → FailsWith .chkEnd s .badLen) ∧
    (s.chkOpen = true → s.zOpen = false → s.chkRem = 0#32 →
      exec .chkEnd s = .next { s with outq := s.outq ++ be32 (s.crc ^^^ 0xFFFFFFFF#32), chkOpen := false })

/-- FLT_CFG ch, W (44_scanline_filter.md R213): legal in any state but the error state. -/
def Obligations.FltCfgSetsTheGeometry : Prop :=
  (∀ (ch : Nat) (W : Word), ch < 16777216 → encode (.fltCfg ch W) = [BitVec.ofNat 32 (0x50000000 + ch), W]) ∧
  ∀ (ch : Nat) (W : Word) (s : State), s.err = false →
    ((ch ≠ 3 ∧ ch ≠ 4) ∨ W = 0#32 → FailsWith (.fltCfg ch W) s .badArg) ∧
    (ch = 3 → W ≠ 0#32 → exec (.fltCfg ch W) s = .next { s with fltCh4 := false, fltW := W }) ∧
    (ch = 4 → W ≠ 0#32 → exec (.fltCfg ch W) s = .next { s with fltCh4 := true, fltW := W })

/-- FLT_ROWS r (44_scanline_filter.md R214): it consumes `r * flt_w * flt_ch` bytes; the `r * (1 + 3 * flt_w)` filtered
bytes are payload of the open stream (framed as ZLB_DATA frames its bytes), else of the open chunk, else output. -/
def Obligations.FltRowsRoutesFilteredRows : Prop :=
  (∀ r : Nat, r < 16777216 → encode (.fltRows r) = [BitVec.ofNat 32 (0x51000000 + r)]) ∧
  ∀ (r need m : Nat) (s : State) (p : List Byte), s.err = false →
    need = r * s.fltW.toNat * (if s.fltCh4 = true then 4 else 3) → m = r * (1 + 3 * s.fltW.toNat) →
    p = filterRows s.fltCh4 s.fltW.toNat r (s.inq.take need) →
    (s.fltW = 0#32 → FailsWith (.fltRows r) s .badState) ∧
    (s.fltW ≠ 0#32 → s.zOpen = true → s.zRem.toNat < m → FailsWith (.fltRows r) s .badLen) ∧
    (s.fltW ≠ 0#32 → s.zOpen = false → s.chkOpen = true → s.chkRem.toNat < m →
      FailsWith (.fltRows r) s .badLen) ∧
    (need ≤ s.inq.length → p.length = m) ∧
    (s.fltW ≠ 0#32 → need ≤ s.inq.length → s.zOpen = false → s.chkOpen = false →
      exec (.fltRows r) s = .next { s with inq := s.inq.drop need, outq := s.outq ++ p }) ∧
    (s.fltW ≠ 0#32 → need ≤ s.inq.length → s.zOpen = false → s.chkOpen = true → m ≤ s.chkRem.toNat →
      exec (.fltRows r) s = .next { s with
        inq := s.inq.drop need, outq := s.outq ++ p,
        crc := p.foldl crcByte s.crc, chkRem := s.chkRem - BitVec.ofNat 32 m }) ∧
    (s.fltW ≠ 0#32 → need ≤ s.inq.length → s.zOpen = true → m ≤ s.zRem.toNat →
      exec (.fltRows r) s = .next { s with
        inq := s.inq.drop need
        outq := s.outq ++ framedBytes s.zRem.toNat s.zBlk.toNat p
        crc := if s.chkOpen = true then
            (framedBytes s.zRem.toNat s.zBlk.toNat p).foldl crcByte s.crc else s.crc
        chkRem := if s.chkOpen = true then
            s.chkRem - BitVec.ofNat 32 (framedBytes s.zRem.toNat s.zBlk.toNat p).length else s.chkRem
        adlA := (p.foldl adlByte (s.adlA, s.adlB)).1
        adlB := (p.foldl adlByte (s.adlA, s.adlB)).2
        zRem := s.zRem - BitVec.ofNat 32 m
        zBlk := BitVec.ofNat 16 (blockLeft s.zRem.toNat s.zBlk.toNat m)
        zHdr := s.zHdr || decide (s.zBlk.toNat < m) })

/-! ## Whole-machine rules -/

/-- 10_state.md R43 at reset. -/
def Obligations.StateInvariantsHoldAtReset : Prop :=
  State.reset.Inv ∧ State.reset.ErrorRecord ∧ State.reset.FetchInv

/-- 10_state.md R43: every step from a state that meets the invariants, reachable or not, leads to one that does. -/
def Obligations.EveryStepKeepsTheStateInvariants : Prop :=
  ∀ s t : State, s.Inv → step s = .next t → t.Inv

/-- 10_state.md R27, R41: every step keeps the error record's form. -/
def Obligations.EveryStepKeepsTheErrorRecord : Prop :=
  ∀ s t : State, s.ErrorRecord → step s = .next t → t.ErrorRecord

/-- 10_state.md R28, 40_control.md R121, R127: every step keeps the assembler without a whole command, and a command in
execution one that passed its checks. That the model holds the waiting command decoded is its own choice (log entry 1). -/
def Obligations.EveryStepKeepsTheFetchState : Prop :=
  ∀ s t : State, s.FetchInv → step s = .next t →
    t.FetchInv ∧ t.asmWords.length ≤ 2

/-- 20_memory.md R61, R62, R72: a step removes input from the front and adds output at the end, and does nothing else to
either stream. -/
def Obligations.StreamsOnlyAdvance : Prop :=
  ∀ s t : State, step s = .next t → (∃ k, t.inq = s.inq.drop k) ∧ (∃ e, t.outq = s.outq ++ e)

/-- 20_memory.md R72, R78, 70_reset_and_hazards.md R315: a command that executes consumes exactly `Need(w)` bytes, and its
output bytes and the other fields it leaves are the same whatever output came before and whatever input is queued behind
its own bytes, which stays queued. -/
def Obligations.CommandDependsOnlyOnItsOwnInput : Prop :=
  ∀ (i : Instr) (s t : State), s.err = false → Passes i s → needBytes i s ≤ s.inq.length → exec i s = .next t →
    t.inq = s.inq.drop (needBytes i s) ∧
    ∃ e, t.outq = s.outq ++ e ∧
      ∀ x o : List Byte,
        exec i { s with inq := s.inq ++ x, outq := o } = .next { t with inq := t.inq ++ x, outq := o ++ e }

/-- "Written by" in 10_state.md R21-R27 (and 40_control.md R125 for SRST, R45 for the flags): no command writes a unit or
error field but those named there, field by field; the CRC and the chunk's count change inside an open chunk only with
output from a command that emits payload (20_memory.md R66); the error record changes only as `raise Error` writes it
(60_exceptions.md R283). And no command touches the command words. -/
def Obligations.OnlyTheNamedCommandsWrite : Prop :=
  ∀ (i : Instr) (s t : State), exec i s = .next t →
    (t.crc ≠ s.crc → i = .srst ∨ i = .crcInit ∨ (∃ n, i = .crcFeed n) ∨ (∃ L T, i = .chkBegin L T) ∨
      (s.chkOpen = true ∧ t.outq ≠ s.outq ∧
        i.opcode ∈ [Opcode.chkData, .zlbBegin, .zlbData, .zlbEnd, .fltRows])) ∧
    (t.adlA ≠ s.adlA ∨ t.adlB ≠ s.adlB → i = .srst ∨ i = .adlInit ∨ (∃ n, i = .adlFeed n) ∨
      (∃ N, i = .zlbBegin N) ∨ (s.zOpen = true ∧ ((∃ n, i = .zlbData n) ∨ (∃ r, i = .fltRows r)))) ∧
    (t.chkOpen ≠ s.chkOpen → i = .srst ∨ i = .chkEnd ∨ ∃ L T, i = .chkBegin L T) ∧
    (t.chkRem ≠ s.chkRem → i = .srst ∨ (∃ L T, i = .chkBegin L T) ∨
      (s.chkOpen = true ∧ t.outq ≠ s.outq ∧
        i.opcode ∈ [Opcode.chkData, .zlbBegin, .zlbData, .zlbEnd, .fltRows])) ∧
    (t.zOpen ≠ s.zOpen → i = .srst ∨ i = .zlbEnd ∨ ∃ N, i = .zlbBegin N) ∧
    (t.zRem ≠ s.zRem ∨ t.zBlk ≠ s.zBlk → i = .srst ∨ (∃ N, i = .zlbBegin N) ∨
      (s.zOpen = true ∧ ((∃ n, i = .zlbData n) ∨ (∃ r, i = .fltRows r)))) ∧
    (t.zHdr ≠ s.zHdr → i = .srst ∨ i = .zlbEnd ∨ (∃ N, i = .zlbBegin N) ∨
      (s.zOpen = true ∧ ((∃ n, i = .zlbData n) ∨ (∃ r, i = .fltRows r)))) ∧
    (t.fltW ≠ s.fltW ∨ t.fltCh4 ≠ s.fltCh4 → i = .srst ∨ ∃ ch W, i = .fltCfg ch W) ∧
    (t.err ≠ s.err ∨ t.errCode ≠ s.errCode ∨ t.errCmd ≠ s.errCmd → i = .srst ∨
      (s.err = false ∧ ∃ code, code ≠ .noError ∧
        t = { s with err := true, errCode := code, errCmd := i.word0 })) ∧
    t.asmWords = s.asmWords ∧ t.cmdq = s.cmdq

/-- 30_encoding.md R101: the units are incremental; a data command split into two gives the state and the output of one. -/
def Obligations.SplitDataCommandsGiveTheSameResult : Prop :=
  ∀ (c : Nat → Instr) (m n : Nat) (s : State),
    (c = .raw ∨ c = .crcFeed ∨ c = .adlFeed ∨ c = .zlbData ∨ c = .chkData ∨ c = .fltRows) →
    s.err = false → Passes (c (m + n)) s → needBytes (c (m + n)) s ≤ s.inq.length →
    execAll [c m, c n] s = exec (c (m + n)) s

/-! ## The units equal the source's functions -/

/-- 41_crc32.md R142 (and the check vectors of R140): `CRC_INIT; CRC_FEED m` on d leaves CRC_VALUE reading `crc32(d)`, the
fold of `CrcByte` from 0xFFFFFFFF, inverted. -/
def Obligations.CrcUnitComputesCrc32 : Prop :=
  (∀ (d rest : List Byte) (s : State), s.err = false → s.chkOpen = false → s.inq = d ++ rest →
    ∃ t, execAll [.crcInit, .crcFeed d.length] s = .next t ∧ t.register 1#3 = crc32 d ∧
      t.inq = rest ∧ t.outq = s.outq) ∧
  (∀ d : List Byte, crc32 d = d.foldl crcByte 0xFFFFFFFF#32 ^^^ 0xFFFFFFFF#32) ∧
  crc32 [] = 0#32 ∧
  crc32 [0x31#8, 0x32#8, 0x33#8, 0x34#8, 0x35#8, 0x36#8, 0x37#8, 0x38#8, 0x39#8] = 0xCBF43926#32

/-- 42_adler32.md R162 (and the check vectors of R160): `ADL_INIT; ADL_FEED |d|` on d leaves ADLER_VALUE reading
`adler32(d)`, and that is `(b << 16) | a` for the sums of R160 over exact numbers. -/
def Obligations.AdlerUnitComputesAdler32 : Prop :=
  (∀ (d rest : List Byte) (s : State), s.err = false → s.zOpen = false → s.inq = d ++ rest →
    ∃ t, execAll [.adlInit, .adlFeed d.length] s = .next t ∧ t.register 2#3 = adler32 d ∧
      t.inq = rest ∧ t.outq = s.outq) ∧
  (∀ d : List Byte,
    let sums := d.foldl (fun (ab : Nat × Nat) x =>
      ((ab.1 + x.toNat) % 65521, (ab.2 + (ab.1 + x.toNat) % 65521) % 65521)) (1, 0)
    (adler32 d).toNat = sums.2 * 65536 + sums.1) ∧
  adler32 [] = 1#32 ∧
  adler32 [0x57#8, 0x69#8, 0x6B#8, 0x69#8, 0x70#8, 0x65#8, 0x64#8, 0x69#8, 0x61#8] = 0x11E60398#32

/-- 41_crc32.md R146: the byte-table form of the CRC update, and the entries listed there. -/
def Obligations.CrcTableFormIsEquivalent : Prop :=
  (∀ (c : Word) (b : Byte), crcByte c b = crcTable ((c ^^^ b.setWidth 32).setWidth 8) ^^^ (c >>> 8)) ∧
  crcTable 0#8 = 0x00000000#32 ∧ crcTable 1#8 = 0x77073096#32 ∧ crcTable 2#8 = 0xEE0E612C#32 ∧
  crcTable 3#8 = 0x990951BA#32 ∧ crcTable 128#8 = 0xEDB88320#32 ∧ crcTable 255#8 = 0x2D02EF8D#32

/-- 43_zlib_framer.md R183: the block count and the stream size, and that `zlib_wrap` has that length. -/
def Obligations.StreamSize : Prop :=
  (∀ N : Nat, zsize N = 2 + 5 * max 1 ((N + 65534) / 65535) + N + 4) ∧
  zsize 0 = 11 ∧ zsize 1 = 12 ∧ zsize 65535 = 65546 ∧ zsize 65536 = 65552 ∧ zsize 131072 = 131093 ∧
  ∀ d : List Byte, (zlibWrap d).length = zsize d.length

/-- 43_zlib_framer.md R185: the empty stream's 11 bytes. -/
def Obligations.EmptyStreamBytes : Prop :=
  ∀ s : State, s.err = false → s.chkOpen = false → s.zOpen = false →
    ∃ t, execAll [.zlbBegin 0#32, .zlbEnd] s = .next t ∧ t.zOpen = false ∧
      t.outq = s.outq ++ [0x78#8, 0x01#8, 0x01#8, 0x00#8, 0x00#8, 0xFF#8, 0xFF#8, 0x00#8, 0x00#8, 0x00#8, 0x01#8]

/-- 43_zlib_framer.md R190: with no chunk open, `ZLB_BEGIN N; ZLB_DATA* N; ZLB_END` on d emits exactly `zlib_wrap(d)`, the
greedy blocks of R182, for every d of at most 2^32 - 1 bytes. -/
def Obligations.FramerEmitsZlibWrap : Prop :=
  ∀ (d rest : List Byte) (s : State), d.length < 4294967296 → s.err = false → s.chkOpen = false →
    s.zOpen = false → s.inq = d ++ rest →
    ∃ cs t, Pseudo.expand (.zlib d.length) = some cs ∧ execAll cs s = .next t ∧
      t.outq = s.outq ++ zlibWrap d ∧ t.inq = rest ∧ t.err = false ∧ t.zOpen = false ∧ t.current = s.current

/-- 44_scanline_filter.md R212: after FLT_CFG, FLT_ROWS commands whose counts sum to H emit `filter_scanlines(raster)`. -/
def Obligations.FilterEmitsFilterScanlines : Prop :=
  ∀ (ch4 : Bool) (W : Word) (counts : List Nat) (raster rest : List Byte) (s : State),
    W ≠ 0#32 → s.err = false → s.chkOpen = false → s.zOpen = false →
    raster.length = counts.sum * W.toNat * (if ch4 = true then 4 else 3) → s.inq = raster ++ rest →
    ∃ t, execAll (.fltCfg (if ch4 = true then 4 else 3) W :: counts.map .fltRows) s = .next t ∧
      t.outq = s.outq ++ filterScanlines ch4 W.toNat counts.sum raster ∧ t.inq = rest ∧ t.err = false ∧
      t.current = s.current

/-- 45_chunk_serializer.md R233, with R237 for ADL_INIT and ADL_FEED and 40_control.md R124 for NOP. First: CHK_DATA commands
whose counts sum to |p|, between CHK_BEGIN |p|, t and CHK_END, emit `write_chunk(t, p)`. Second: whatever CHK_DATA, framer,
filter, ADL_INIT, ADL_FEED and NOP commands stand between CHK_BEGIN and CHK_END, if no command failed and none was left
waiting, the output is `write_chunk(t, p)` for a payload p of the declared length. -/
def Obligations.SerializerEmitsWriteChunk : Prop :=
  (∀ (T : Word) (counts : List Nat) (p rest : List Byte) (s : State),
    ¬badArgIf (.chkBegin (BitVec.ofNat 32 p.length) T) → p.length < 4294967296 → counts.sum = p.length →
    s.err = false → s.chkOpen = false → s.zOpen = false → s.inq = p ++ rest →
    ∃ t bytes, execAll (.chkBegin (BitVec.ofNat 32 p.length) T :: counts.map .chkData ++ [.chkEnd]) s = .next t ∧
      writeChunk T p = some bytes ∧ t.outq = s.outq ++ bytes ∧ t.inq = rest ∧ t.err = false ∧ t.chkOpen = false ∧
      t.current = s.current) ∧
  (∀ (L T : Word) (cs : List Instr) (s t : State),
    (∀ i ∈ cs, i.opcode ∈ [Opcode.chkData, .zlbBegin, .zlbData, .zlbEnd, .fltCfg, .fltRows, .adlInit, .adlFeed,
      .nop]) →
    s.Inv → s.err = false → s.current = none →
    execAll (.chkBegin L T :: cs ++ [.chkEnd]) s = .next t → t.err = false → t.current = none →
    ∃ p bytes, p.length = L.toNat ∧ writeChunk T p = some bytes ∧ t.outq = s.outq ++ bytes)

/-- 46_png_host_sequence.md R265, under the host's preconditions of R266: the command sequence, the input shown and
`encode_png(raster)` (R260-R264, 57 + L bytes) all exist, and the sequence on that input emits exactly those bytes; no
command fails and every input byte of it is consumed. -/
def Obligations.PngSequenceEmitsEncodePng : Prop :=
  ∀ (ch4 : Bool) (W H : Nat) (raster : List Byte), PngPreconditions W H (if ch4 = true then 4 else 3) raster →
    ∃ cs input png, pngCommands W H (if ch4 = true then 4 else 3) = some cs ∧ pngInput W H raster = some input ∧
      encodePng ch4 W H raster = some png ∧ png.length = 57 + zsize (H * (1 + 3 * W)) ∧
      ∀ (rest : List Byte) (s : State), s.err = false → s.chkOpen = false → s.zOpen = false → s.inq = input ++ rest →
        ∃ t, execAll cs s = .next t ∧ t.outq = s.outq ++ png ∧ t.inq = rest ∧ t.err = false ∧ t.current = s.current

/-- 30_encoding.md R100, R101 and 46_png_host_sequence.md R265, R266: `pieces`, every expansion of R101's table, and that an
expansion is refused exactly where a declared length, a width, `ch` or a tag does not fit its field. That the expansion is
refused with its commands is log entry 17, which tag strings are refused beyond R100 log entry 14, and a `ch` that does not
fit log entry 18. -/
def Obligations.PseudoInstructionsAreRefusedOnlyForWhatDoesNotFit : Prop :=
  (∀ n : Nat, pieces n =
      List.replicate (n / 16777215) 16777215 ++ (if n % 16777215 = 0 then [] else [n % 16777215]) ∧
    (pieces n).sum = n ∧ ∀ k ∈ pieces n, 1 ≤ k ∧ k ≤ 16777215) ∧
  (∀ n : Nat,
    Pseudo.expand (.raw n) = some ((pieces n).map .raw) ∧
    Pseudo.expand (.crcFeed n) = some ((pieces n).map .crcFeed) ∧
    Pseudo.expand (.adlFeed n) = some ((pieces n).map .adlFeed) ∧
    Pseudo.expand (.zlbData n) = some ((pieces n).map .zlbData) ∧
    Pseudo.expand (.chkData n) = some ((pieces n).map .chkData) ∧
    Pseudo.expand (.fltRows n) = some ((pieces n).map .fltRows) ∧
    Pseudo.expand (.crc32 n) = some (.crcInit :: (pieces n).map .crcFeed) ∧
    Pseudo.expand (.adler32 n) = some (.adlInit :: (pieces n).map .adlFeed)) ∧
  (∀ n : Nat, Pseudo.expand (.zlib n) =
    if n < 4294967296 then some (.zlbBegin (BitVec.ofNat 32 n) :: (pieces n).map .zlbData ++ [.zlbEnd]) else none) ∧
  (∀ (tag : List Char) (n : Nat), Pseudo.expand (.chunk tag n) =
    if n < 4294967296 then (assembleTag tag).map fun T =>
      .chkBegin (BitVec.ofNat 32 n) T :: (pieces n).map .chkData ++ [.chkEnd]
    else none) ∧
  (∀ tag : List Char, tag.length ≠ 4 → assembleTag tag = none) ∧
  (∀ c0 c1 c2 c3 : Char, assembleTag [c0, c1, c2, c3] =
    if c0.toNat < 256 ∧ c1.toNat < 256 ∧ c2.toNat < 256 ∧ c3.toNat < 256 then
      some (BitVec.ofNat 32 (c0.toNat * 2 ^ 24 + c1.toNat * 2 ^ 16 + c2.toNat * 2 ^ 8 + c3.toNat))
    else none) ∧
  (∀ W H ch : Nat, Pseudo.expand (.png W H ch) = pngCommands W H ch ∧ pngCommands W H ch =
    if ch < 16777216 ∧ W < 4294967296 ∧ zsize (H * (1 + 3 * W)) < 4294967296 then
      some ([.raw 8, .chkBegin 13#32 0x49484452#32, .chkData 13, .chkEnd, .fltCfg ch (BitVec.ofNat 32 W),
          .chkBegin (BitVec.ofNat 32 (zsize (H * (1 + 3 * W)))) 0x49444154#32,
          .zlbBegin (BitVec.ofNat 32 (H * (1 + 3 * W)))]
        ++ (pieces H).map .fltRows
        ++ [.zlbEnd, .chkEnd, .chkBegin 0#32 0x49454E44#32, .chkEnd])
    else none)

/-! ## Runs of a program -/

/-- 70_reset_and_hazards.md R324: a run has a result exactly when the host has pushed its last command word, BUSY = 0, and
the host has taken every output byte; the result is the bytes taken, what the 8 registers read, and `inq`. Along any moves
the output bytes, taken or not, are those before with some added at the end. -/
def Obligations.RunResultIsOutputRegistersAndInput : Prop :=
  (∀ (y : System) (r : RunResult), y.result = some r ↔
    y.words = [] ∧ y.block.busy = false ∧ y.block.outq = [] ∧
    r.output = y.taken ∧ r.inq = y.block.inq ∧ r.registers.length = 8 ∧
    ∀ (k : Nat) (a : BitVec 3), r.registers[a.toNat]? = some (y.block.readPort k a)) ∧
  (∀ (y : System) (moves : List Move),
    ∃ e, (y.run moves).taken ++ (y.run moves).block.outq = y.taken ++ y.block.outq ++ e)

/-- 20_memory.md R78: however the block's steps and the host's transfers interleave, two runs of the same program on the same
input that end have the same output and register values, and leave the same input bytes, pushed or not. -/
def Obligations.EndedRunsAgree : Prop :=
  ∀ (y : System) (m n : List Move) (r q : RunResult), (y.run m).result = some r → (y.run n).result = some q →
    r.output = q.output ∧ r.registers = q.registers ∧ r.inq ++ (y.run m).bytes = q.inq ++ (y.run n).bytes

/-- 40_control.md R127, 70_reset_and_hazards.md R318, R324: a run hangs if the command in execution needs more input bytes
than the host still has, or if the host's words end inside a command; and a busy block whose step changes nothing is in one
of these two waits. That the waiting block takes steps that change nothing is log entry 1. -/
def Obligations.RunsThatHang : Prop :=
  (∀ (y : System) (i : Instr), y.block.FetchInv → y.block.current = some i →
    y.block.inq.length + y.bytes.length < needBytes i y.block → y.Hangs) ∧
  (∀ y : System, y.block.WaitingForWords → y.words = [] → y.Hangs) ∧
  (∀ s : State, s.busy = true → step s = .next s → s.Waiting ∨ s.WaitingForWords)
end

