-- ==== Sys2Proof/Laws/Assembler.lean ====
section
/-! SUPPORT. The pieces of a long count and the lines they stand for (30_encoding.md R101): said once, for every data
command. -/

namespace Sys2Proof.Machine

theorem pieces_le {n k : Nat} (h : k ∈ pieces n) : k ≤ maxCount := by
  unfold pieces at h
  rcases List.mem_append.mp h with h | h
  · exact (List.eq_of_mem_replicate h).le
  · split at h
    · cases h
    · rw [List.mem_singleton.mp h]
      exact (Nat.mod_lt n (by decide)).le

@[simp] theorem assembleAll_nil : assembleAll [] = some [] := rfl

@[simp] theorem assembleAll_cons (line : AsmLine) (lines : List AsmLine) :
    assembleAll (line :: lines) = (assemble line).bind fun i => (assembleAll lines).map fun is => i :: is := rfl

theorem assembleAll_append (a b : List AsmLine) :
    assembleAll (a ++ b) = (assembleAll a).bind fun is => (assembleAll b).map fun js => is ++ js := by
  induction a with
  | nil => cases h : assembleAll b <;> simp [h]
  | cons line lines ih =>
    rw [List.cons_append, assembleAll_cons, assembleAll_cons, ih]
    cases assemble line <;> cases assembleAll lines <;> cases assembleAll b <;> rfl

/-- `OP* n` is never refused: its counts fit IMM. -/
theorem assembleAll_repeated {op : Nat → AsmLine} {cmd : Nat → Instr}
    (h : ∀ k, k ≤ maxCount → assemble (op k) = some (cmd k)) (n : Nat) :
    assembleAll (repeated op n) = some ((pieces n).map cmd) := by
  unfold repeated
  have hp : ∀ k ∈ pieces n, k ≤ maxCount := fun k hk => pieces_le hk
  generalize pieces n = ks at hp ⊢
  induction ks with
  | nil => rfl
  | cons k ks ih =>
    rw [List.map_cons, assembleAll_cons, h k (hp k List.mem_cons_self), ih fun j hj => hp j (List.mem_cons_of_mem k hj)]
    rfl

/-- A data command's line assembles when its count is at most the largest. -/
theorem assembleImm_of_le {k : Nat} {i : Instr} (hi : i.wf = fitsImm k) (h : k ≤ maxCount) : assembleImm i = some i := by
  have hk : fitsImm k = true := by
    unfold maxCount at h
    simp only [fitsImm, decide_eq_true_eq]
    omega
  rw [assembleImm, hi, hk, if_pos rfl]

end Sys2Proof.Machine
end

