-- ==== Sys2Proof/Laws/Decode.lean ====
section
/-! SUPPORT. The fields of word 0, the opcode map, and what the decoder answers (30_encoding.md R90-R97). -/

namespace Sys2Proof

theorem makeWord0_toNat (o : BitVec 8) (v : BitVec 24) :
    (makeWord0 o v).toNat = o.toNat * 16777216 + v.toNat := by
  unfold makeWord0
  rw [BitVec.toNat_append, ← Nat.shiftLeft_add_eq_or_of_lt v.isLt, Nat.shiftLeft_eq]

theorem opcOf_toNat (w : Word) : (opcOf w).toNat = w.toNat / 16777216 := by
  have := w.isLt
  simp only [opcOf, BitVec.extractLsb'_toNat, Nat.shiftRight_eq_div_pow]
  omega

theorem immOf_toNat (w : Word) : (immOf w).toNat = w.toNat % 16777216 := by
  simp only [immOf, BitVec.extractLsb'_toNat, Nat.shiftRight_zero]

@[simp] theorem opcOf_makeWord0 (o : BitVec 8) (v : BitVec 24) : opcOf (makeWord0 o v) = o := by
  apply BitVec.eq_of_toNat_eq
  have := v.isLt
  rw [opcOf_toNat, makeWord0_toNat]
  omega

@[simp] theorem immOf_makeWord0 (o : BitVec 8) (v : BitVec 24) : immOf (makeWord0 o v) = v := by
  apply BitVec.eq_of_toNat_eq
  have := v.isLt
  rw [immOf_toNat, makeWord0_toNat]
  omega

/-- A word 0 is its two fields (R90). -/
theorem makeWord0_fields (w : Word) : makeWord0 (opcOf w) (immOf w) = w := by
  apply BitVec.eq_of_toNat_eq
  rw [makeWord0_toNat, opcOf_toNat, immOf_toNat]
  omega

@[simp] theorem lookupOpcode_code (o : Opcode) : lookupOpcode o.code = some o := by
  cases o <;> rfl

theorem code_of_lookupOpcode {b : BitVec 8} {o : Opcode} (h : lookupOpcode b = some o) : o.code = b := by
  have := List.find?_some h
  simpa using this

theorem commandLength_word0 (i : Instr) : commandLength i.word0 = i.opcode.format.words := by
  simp [commandLength, Instr.word0]

theorem decode_cons_defined {w0 : Word} {o : Opcode} (ws : List Word) (h : lookupOpcode (opcOf w0) = some o) :
    decode (w0 :: ws) = decodeDefined o w0 ws := by
  simp [decode, h]

theorem decode_cons_reserved {w0 : Word} (ws : List Word) (h : lookupOpcode (opcOf w0) = none) :
    decode (w0 :: ws) = .illegal .reservedOpcode w0 ws := by
  simp [decode, h]

theorem zeroImm_command {w0 : Word} {i j : Instr} {rest r : List Word} (h : zeroImm w0 i rest = .command j r) :
    immOf w0 = 0#24 ∧ i = j ∧ rest = r := by
  unfold zeroImm at h
  split at h
  · cases h; exact ⟨‹_›, rfl, rfl⟩
  · cases h

/-- Word 0 with a numeric IMM, as a number (R90). -/
theorem makeWord0_ofNat (c : BitVec 8) (n : Nat) (h : n < 16777216) :
    makeWord0 c (BitVec.ofNat 24 n) = BitVec.ofNat 32 (c.toNat * 16777216 + n) := by
  apply BitVec.eq_of_toNat_eq
  have := c.isLt
  rw [makeWord0_toNat]
  simp only [BitVec.toNat_ofNat]
  omega

/-- A rejected command is a whole one: its words are the front ones, as many as its opcode says (R92, R96, R97). -/
theorem decode_illegal {ws : List Word} {why : Illegal} {w0 : Word} {rest : List Word}
    (h : decode ws = .illegal why w0 rest) :
    ∃ v, ws = w0 :: v ∧ rest = (w0 :: v).drop (commandLength w0) := by
  match ws with
  | [] => cases h
  | w :: ws =>
    cases hl : lookupOpcode (opcOf w) with
    | none => rw [decode_cons_reserved _ hl] at h; cases h; exact ⟨_, rfl, by simp [commandLength, hl]⟩
    | some o =>
      rw [decode_cons_defined _ hl] at h
      have hw : commandLength w = o.format.words := by simp [commandLength, hl]
      cases o <;> simp only [decodeDefined] at h <;> (try split at h) <;> (try cases h) <;>

        (unfold zeroImm at h; split at h <;> cases h) <;> refine ⟨_, rfl, ?_⟩ <;> rw [hw] <;> rfl

/-- The decoder waits exactly while words of the front command are missing (R92). -/
theorem decode_incomplete {w0 : Word} {ws : List Word} :
    decode (w0 :: ws) = .incomplete ↔ ws.length + 1 < commandLength w0 := by
  cases hl : lookupOpcode (opcOf w0) with
  | none => rw [decode_cons_reserved _ hl]; simp [commandLength, hl]
  | some o =>
    rw [decode_cons_defined _ hl]
    have hw : commandLength w0 = o.format.words := by simp [commandLength, hl]
    rw [hw]
    cases o <;> simp only [decodeDefined, zeroImm, Opcode.format, Format.words] <;>
      (try split) <;> (try split) <;> (try simp)

end Sys2Proof
end

