-- ==== Sys2Proof/Laws/State.lean ====
section
/-! SUPPORT. One lemma per field per update of the state: what each named operation leaves in each field. -/

namespace Sys2Proof.Machine

/-! ## outPush -/

@[simp] theorem State.outPush_crc (s : State) (b : Byte) :
    (s.outPush b).crc = s.crc := rfl
@[simp] theorem State.outPush_adlA (s : State) (b : Byte) :
    (s.outPush b).adlA = s.adlA := rfl
@[simp] theorem State.outPush_adlB (s : State) (b : Byte) :
    (s.outPush b).adlB = s.adlB := rfl
@[simp] theorem State.outPush_chkOpen (s : State) (b : Byte) :
    (s.outPush b).chkOpen = s.chkOpen := rfl
@[simp] theorem State.outPush_chkRem (s : State) (b : Byte) :
    (s.outPush b).chkRem = s.chkRem := rfl
@[simp] theorem State.outPush_zOpen (s : State) (b : Byte) :
    (s.outPush b).zOpen = s.zOpen := rfl
@[simp] theorem State.outPush_zRem (s : State) (b : Byte) :
    (s.outPush b).zRem = s.zRem := rfl
@[simp] theorem State.outPush_zBlk (s : State) (b : Byte) :
    (s.outPush b).zBlk = s.zBlk := rfl
@[simp] theorem State.outPush_zHdr (s : State) (b : Byte) :
    (s.outPush b).zHdr = s.zHdr := rfl
@[simp] theorem State.outPush_fltW (s : State) (b : Byte) :
    (s.outPush b).fltW = s.fltW := rfl
@[simp] theorem State.outPush_fltCh4 (s : State) (b : Byte) :
    (s.outPush b).fltCh4 = s.fltCh4 := rfl
@[simp] theorem State.outPush_err (s : State) (b : Byte) :
    (s.outPush b).err = s.err := rfl
@[simp] theorem State.outPush_errCode (s : State) (b : Byte) :
    (s.outPush b).errCode = s.errCode := rfl
@[simp] theorem State.outPush_errCmd (s : State) (b : Byte) :
    (s.outPush b).errCmd = s.errCmd := rfl
@[simp] theorem State.outPush_asmWords (s : State) (b : Byte) :
    (s.outPush b).asmWords = s.asmWords := rfl
@[simp] theorem State.outPush_current (s : State) (b : Byte) :
    (s.outPush b).current = s.current := rfl
@[simp] theorem State.outPush_cmdq (s : State) (b : Byte) :
    (s.outPush b).cmdq = s.cmdq := rfl
@[simp] theorem State.outPush_inq (s : State) (b : Byte) :
    (s.outPush b).inq = s.inq := rfl
@[simp] theorem State.outPush_outq (s : State) (b : Byte) :
    (s.outPush b).outq = s.outq ++ [b] := rfl

/-! ## inDrop -/

@[simp] theorem State.inDrop_crc (n : Nat) (s : State) :
    (s.inDrop n).crc = s.crc := rfl
@[simp] theorem State.inDrop_adlA (n : Nat) (s : State) :
    (s.inDrop n).adlA = s.adlA := rfl
@[simp] theorem State.inDrop_adlB (n : Nat) (s : State) :
    (s.inDrop n).adlB = s.adlB := rfl
@[simp] theorem State.inDrop_chkOpen (n : Nat) (s : State) :
    (s.inDrop n).chkOpen = s.chkOpen := rfl
@[simp] theorem State.inDrop_chkRem (n : Nat) (s : State) :
    (s.inDrop n).chkRem = s.chkRem := rfl
@[simp] theorem State.inDrop_zOpen (n : Nat) (s : State) :
    (s.inDrop n).zOpen = s.zOpen := rfl
@[simp] theorem State.inDrop_zRem (n : Nat) (s : State) :
    (s.inDrop n).zRem = s.zRem := rfl
@[simp] theorem State.inDrop_zBlk (n : Nat) (s : State) :
    (s.inDrop n).zBlk = s.zBlk := rfl
@[simp] theorem State.inDrop_zHdr (n : Nat) (s : State) :
    (s.inDrop n).zHdr = s.zHdr := rfl
@[simp] theorem State.inDrop_fltW (n : Nat) (s : State) :
    (s.inDrop n).fltW = s.fltW := rfl
@[simp] theorem State.inDrop_fltCh4 (n : Nat) (s : State) :
    (s.inDrop n).fltCh4 = s.fltCh4 := rfl
@[simp] theorem State.inDrop_err (n : Nat) (s : State) :
    (s.inDrop n).err = s.err := rfl
@[simp] theorem State.inDrop_errCode (n : Nat) (s : State) :
    (s.inDrop n).errCode = s.errCode := rfl
@[simp] theorem State.inDrop_errCmd (n : Nat) (s : State) :
    (s.inDrop n).errCmd = s.errCmd := rfl
@[simp] theorem State.inDrop_asmWords (n : Nat) (s : State) :
    (s.inDrop n).asmWords = s.asmWords := rfl
@[simp] theorem State.inDrop_current (n : Nat) (s : State) :
    (s.inDrop n).current = s.current := rfl
@[simp] theorem State.inDrop_cmdq (n : Nat) (s : State) :
    (s.inDrop n).cmdq = s.cmdq := rfl
@[simp] theorem State.inDrop_inq (n : Nat) (s : State) :
    (s.inDrop n).inq = s.inq.drop n := rfl
@[simp] theorem State.inDrop_outq (n : Nat) (s : State) :
    (s.inDrop n).outq = s.outq := rfl

/-! ## raiseError -/

@[simp] theorem State.raiseError_crc (e : ErrCode) (w : Word) (s : State) :
    (s.raiseError e w).crc = s.crc := rfl
@[simp] theorem State.raiseError_adlA (e : ErrCode) (w : Word) (s : State) :
    (s.raiseError e w).adlA = s.adlA := rfl
@[simp] theorem State.raiseError_adlB (e : ErrCode) (w : Word) (s : State) :
    (s.raiseError e w).adlB = s.adlB := rfl
@[simp] theorem State.raiseError_chkOpen (e : ErrCode) (w : Word) (s : State) :
    (s.raiseError e w).chkOpen = s.chkOpen := rfl
@[simp] theorem State.raiseError_chkRem (e : ErrCode) (w : Word) (s : State) :
    (s.raiseError e w).chkRem = s.chkRem := rfl
@[simp] theorem State.raiseError_zOpen (e : ErrCode) (w : Word) (s : State) :
    (s.raiseError e w).zOpen = s.zOpen := rfl
@[simp] theorem State.raiseError_zRem (e : ErrCode) (w : Word) (s : State) :
    (s.raiseError e w).zRem = s.zRem := rfl
@[simp] theorem State.raiseError_zBlk (e : ErrCode) (w : Word) (s : State) :
    (s.raiseError e w).zBlk = s.zBlk := rfl
@[simp] theorem State.raiseError_zHdr (e : ErrCode) (w : Word) (s : State) :
    (s.raiseError e w).zHdr = s.zHdr := rfl
@[simp] theorem State.raiseError_fltW (e : ErrCode) (w : Word) (s : State) :
    (s.raiseError e w).fltW = s.fltW := rfl
@[simp] theorem State.raiseError_fltCh4 (e : ErrCode) (w : Word) (s : State) :
    (s.raiseError e w).fltCh4 = s.fltCh4 := rfl
@[simp] theorem State.raiseError_err (e : ErrCode) (w : Word) (s : State) :
    (s.raiseError e w).err = true := rfl
@[simp] theorem State.raiseError_errCode (e : ErrCode) (w : Word) (s : State) :
    (s.raiseError e w).errCode = e := rfl
@[simp] theorem State.raiseError_errCmd (e : ErrCode) (w : Word) (s : State) :
    (s.raiseError e w).errCmd = w := rfl
@[simp] theorem State.raiseError_asmWords (e : ErrCode) (w : Word) (s : State) :
    (s.raiseError e w).asmWords = s.asmWords := rfl
@[simp] theorem State.raiseError_current (e : ErrCode) (w : Word) (s : State) :
    (s.raiseError e w).current = s.current := rfl
@[simp] theorem State.raiseError_cmdq (e : ErrCode) (w : Word) (s : State) :
    (s.raiseError e w).cmdq = s.cmdq := rfl
@[simp] theorem State.raiseError_inq (e : ErrCode) (w : Word) (s : State) :
    (s.raiseError e w).inq = s.inq := rfl
@[simp] theorem State.raiseError_outq (e : ErrCode) (w : Word) (s : State) :
    (s.raiseError e w).outq = s.outq := rfl

/-! ## softReset -/

@[simp] theorem State.softReset_crc (s : State) :
    s.softReset.crc = State.reset.crc := rfl
@[simp] theorem State.softReset_adlA (s : State) :
    s.softReset.adlA = State.reset.adlA := rfl
@[simp] theorem State.softReset_adlB (s : State) :
    s.softReset.adlB = State.reset.adlB := rfl
@[simp] theorem State.softReset_chkOpen (s : State) :
    s.softReset.chkOpen = State.reset.chkOpen := rfl
@[simp] theorem State.softReset_chkRem (s : State) :
    s.softReset.chkRem = State.reset.chkRem := rfl
@[simp] theorem State.softReset_zOpen (s : State) :
    s.softReset.zOpen = State.reset.zOpen := rfl
@[simp] theorem State.softReset_zRem (s : State) :
    s.softReset.zRem = State.reset.zRem := rfl
@[simp] theorem State.softReset_zBlk (s : State) :
    s.softReset.zBlk = State.reset.zBlk := rfl
@[simp] theorem State.softReset_zHdr (s : State) :
    s.softReset.zHdr = State.reset.zHdr := rfl
@[simp] theorem State.softReset_fltW (s : State) :
    s.softReset.fltW = State.reset.fltW := rfl
@[simp] theorem State.softReset_fltCh4 (s : State) :
    s.softReset.fltCh4 = State.reset.fltCh4 := rfl
@[simp] theorem State.softReset_err (s : State) :
    s.softReset.err = State.reset.err := rfl
@[simp] theorem State.softReset_errCode (s : State) :
    s.softReset.errCode = State.reset.errCode := rfl
@[simp] theorem State.softReset_errCmd (s : State) :
    s.softReset.errCmd = State.reset.errCmd := rfl
@[simp] theorem State.softReset_asmWords (s : State) :
    s.softReset.asmWords = s.asmWords := rfl
@[simp] theorem State.softReset_current (s : State) :
    s.softReset.current = s.current := rfl
@[simp] theorem State.softReset_cmdq (s : State) :
    s.softReset.cmdq = s.cmdq := rfl
@[simp] theorem State.softReset_inq (s : State) :
    s.softReset.inq = s.inq := rfl
@[simp] theorem State.softReset_outq (s : State) :
    s.softReset.outq = s.outq := rfl

/-! ## await -/

@[simp] theorem State.await_crc (i : Instr) (s : State) :
    (s.await i).crc = s.crc := rfl
@[simp] theorem State.await_adlA (i : Instr) (s : State) :
    (s.await i).adlA = s.adlA := rfl
@[simp] theorem State.await_adlB (i : Instr) (s : State) :
    (s.await i).adlB = s.adlB := rfl
@[simp] theorem State.await_chkOpen (i : Instr) (s : State) :
    (s.await i).chkOpen = s.chkOpen := rfl
@[simp] theorem State.await_chkRem (i : Instr) (s : State) :
    (s.await i).chkRem = s.chkRem := rfl
@[simp] theorem State.await_zOpen (i : Instr) (s : State) :
    (s.await i).zOpen = s.zOpen := rfl
@[simp] theorem State.await_zRem (i : Instr) (s : State) :
    (s.await i).zRem = s.zRem := rfl
@[simp] theorem State.await_zBlk (i : Instr) (s : State) :
    (s.await i).zBlk = s.zBlk := rfl
@[simp] theorem State.await_zHdr (i : Instr) (s : State) :
    (s.await i).zHdr = s.zHdr := rfl
@[simp] theorem State.await_fltW (i : Instr) (s : State) :
    (s.await i).fltW = s.fltW := rfl
@[simp] theorem State.await_fltCh4 (i : Instr) (s : State) :
    (s.await i).fltCh4 = s.fltCh4 := rfl
@[simp] theorem State.await_err (i : Instr) (s : State) :
    (s.await i).err = s.err := rfl
@[simp] theorem State.await_errCode (i : Instr) (s : State) :
    (s.await i).errCode = s.errCode := rfl
@[simp] theorem State.await_errCmd (i : Instr) (s : State) :
    (s.await i).errCmd = s.errCmd := rfl
@[simp] theorem State.await_asmWords (i : Instr) (s : State) :
    (s.await i).asmWords = s.asmWords := rfl
@[simp] theorem State.await_current (i : Instr) (s : State) :
    (s.await i).current = some i := rfl
@[simp] theorem State.await_cmdq (i : Instr) (s : State) :
    (s.await i).cmdq = s.cmdq := rfl
@[simp] theorem State.await_inq (i : Instr) (s : State) :
    (s.await i).inq = s.inq := rfl
@[simp] theorem State.await_outq (i : Instr) (s : State) :
    (s.await i).outq = s.outq := rfl

/-! ## taken -/

@[simp] theorem State.taken_crc (ws : List Word) (s : State) :
    (s.taken ws).crc = s.crc := rfl
@[simp] theorem State.taken_adlA (ws : List Word) (s : State) :
    (s.taken ws).adlA = s.adlA := rfl
@[simp] theorem State.taken_adlB (ws : List Word) (s : State) :
    (s.taken ws).adlB = s.adlB := rfl
@[simp] theorem State.taken_chkOpen (ws : List Word) (s : State) :
    (s.taken ws).chkOpen = s.chkOpen := rfl
@[simp] theorem State.taken_chkRem (ws : List Word) (s : State) :
    (s.taken ws).chkRem = s.chkRem := rfl
@[simp] theorem State.taken_zOpen (ws : List Word) (s : State) :
    (s.taken ws).zOpen = s.zOpen := rfl
@[simp] theorem State.taken_zRem (ws : List Word) (s : State) :
    (s.taken ws).zRem = s.zRem := rfl
@[simp] theorem State.taken_zBlk (ws : List Word) (s : State) :
    (s.taken ws).zBlk = s.zBlk := rfl
@[simp] theorem State.taken_zHdr (ws : List Word) (s : State) :
    (s.taken ws).zHdr = s.zHdr := rfl
@[simp] theorem State.taken_fltW (ws : List Word) (s : State) :
    (s.taken ws).fltW = s.fltW := rfl
@[simp] theorem State.taken_fltCh4 (ws : List Word) (s : State) :
    (s.taken ws).fltCh4 = s.fltCh4 := rfl
@[simp] theorem State.taken_err (ws : List Word) (s : State) :
    (s.taken ws).err = s.err := rfl
@[simp] theorem State.taken_errCode (ws : List Word) (s : State) :
    (s.taken ws).errCode = s.errCode := rfl
@[simp] theorem State.taken_errCmd (ws : List Word) (s : State) :
    (s.taken ws).errCmd = s.errCmd := rfl
@[simp] theorem State.taken_asmWords (ws : List Word) (s : State) :
    (s.taken ws).asmWords = [] := rfl
@[simp] theorem State.taken_current (ws : List Word) (s : State) :
    (s.taken ws).current = s.current := rfl
@[simp] theorem State.taken_cmdq (ws : List Word) (s : State) :
    (s.taken ws).cmdq = ws := rfl
@[simp] theorem State.taken_inq (ws : List Word) (s : State) :
    (s.taken ws).inq = s.inq := rfl
@[simp] theorem State.taken_outq (ws : List Word) (s : State) :
    (s.taken ws).outq = s.outq := rfl

/-! ## assemble -/

@[simp] theorem State.assemble_crc (s : State) :
    s.assemble.crc = s.crc := rfl
@[simp] theorem State.assemble_adlA (s : State) :
    s.assemble.adlA = s.adlA := rfl
@[simp] theorem State.assemble_adlB (s : State) :
    s.assemble.adlB = s.adlB := rfl
@[simp] theorem State.assemble_chkOpen (s : State) :
    s.assemble.chkOpen = s.chkOpen := rfl
@[simp] theorem State.assemble_chkRem (s : State) :
    s.assemble.chkRem = s.chkRem := rfl
@[simp] theorem State.assemble_zOpen (s : State) :
    s.assemble.zOpen = s.zOpen := rfl
@[simp] theorem State.assemble_zRem (s : State) :
    s.assemble.zRem = s.zRem := rfl
@[simp] theorem State.assemble_zBlk (s : State) :
    s.assemble.zBlk = s.zBlk := rfl
@[simp] theorem State.assemble_zHdr (s : State) :
    s.assemble.zHdr = s.zHdr := rfl
@[simp] theorem State.assemble_fltW (s : State) :
    s.assemble.fltW = s.fltW := rfl
@[simp] theorem State.assemble_fltCh4 (s : State) :
    s.assemble.fltCh4 = s.fltCh4 := rfl
@[simp] theorem State.assemble_err (s : State) :
    s.assemble.err = s.err := rfl
@[simp] theorem State.assemble_errCode (s : State) :
    s.assemble.errCode = s.errCode := rfl
@[simp] theorem State.assemble_errCmd (s : State) :
    s.assemble.errCmd = s.errCmd := rfl
@[simp] theorem State.assemble_asmWords (s : State) :
    s.assemble.asmWords = s.commandWords := rfl
@[simp] theorem State.assemble_current (s : State) :
    s.assemble.current = s.current := rfl
@[simp] theorem State.assemble_cmdq (s : State) :
    s.assemble.cmdq = [] := rfl
@[simp] theorem State.assemble_inq (s : State) :
    s.assemble.inq = s.inq := rfl
@[simp] theorem State.assemble_outq (s : State) :
    s.assemble.outq = s.outq := rfl

/-! ## resume -/

@[simp] theorem State.resume_crc (s : State) :
    s.resume.crc = s.crc := rfl
@[simp] theorem State.resume_adlA (s : State) :
    s.resume.adlA = s.adlA := rfl
@[simp] theorem State.resume_adlB (s : State) :
    s.resume.adlB = s.adlB := rfl
@[simp] theorem State.resume_chkOpen (s : State) :
    s.resume.chkOpen = s.chkOpen := rfl
@[simp] theorem State.resume_chkRem (s : State) :
    s.resume.chkRem = s.chkRem := rfl
@[simp] theorem State.resume_zOpen (s : State) :
    s.resume.zOpen = s.zOpen := rfl
@[simp] theorem State.resume_zRem (s : State) :
    s.resume.zRem = s.zRem := rfl
@[simp] theorem State.resume_zBlk (s : State) :
    s.resume.zBlk = s.zBlk := rfl
@[simp] theorem State.resume_zHdr (s : State) :
    s.resume.zHdr = s.zHdr := rfl
@[simp] theorem State.resume_fltW (s : State) :
    s.resume.fltW = s.fltW := rfl
@[simp] theorem State.resume_fltCh4 (s : State) :
    s.resume.fltCh4 = s.fltCh4 := rfl
@[simp] theorem State.resume_err (s : State) :
    s.resume.err = s.err := rfl
@[simp] theorem State.resume_errCode (s : State) :
    s.resume.errCode = s.errCode := rfl
@[simp] theorem State.resume_errCmd (s : State) :
    s.resume.errCmd = s.errCmd := rfl
@[simp] theorem State.resume_asmWords (s : State) :
    s.resume.asmWords = s.asmWords := rfl
@[simp] theorem State.resume_current (s : State) :
    s.resume.current = none := rfl
@[simp] theorem State.resume_cmdq (s : State) :
    s.resume.cmdq = s.cmdq := rfl
@[simp] theorem State.resume_inq (s : State) :
    s.resume.inq = s.inq := rfl
@[simp] theorem State.resume_outq (s : State) :
    s.resume.outq = s.outq := rfl

/-! ## withCommandWords -/

@[simp] theorem State.withCommandWords_crc (s : State) (ws : List Word) :
    (s.withCommandWords ws).crc = s.crc := rfl
@[simp] theorem State.withCommandWords_adlA (s : State) (ws : List Word) :
    (s.withCommandWords ws).adlA = s.adlA := rfl
@[simp] theorem State.withCommandWords_adlB (s : State) (ws : List Word) :
    (s.withCommandWords ws).adlB = s.adlB := rfl
@[simp] theorem State.withCommandWords_chkOpen (s : State) (ws : List Word) :
    (s.withCommandWords ws).chkOpen = s.chkOpen := rfl
@[simp] theorem State.withCommandWords_chkRem (s : State) (ws : List Word) :
    (s.withCommandWords ws).chkRem = s.chkRem := rfl
@[simp] theorem State.withCommandWords_zOpen (s : State) (ws : List Word) :
    (s.withCommandWords ws).zOpen = s.zOpen := rfl
@[simp] theorem State.withCommandWords_zRem (s : State) (ws : List Word) :
    (s.withCommandWords ws).zRem = s.zRem := rfl
@[simp] theorem State.withCommandWords_zBlk (s : State) (ws : List Word) :
    (s.withCommandWords ws).zBlk = s.zBlk := rfl
@[simp] theorem State.withCommandWords_zHdr (s : State) (ws : List Word) :
    (s.withCommandWords ws).zHdr = s.zHdr := rfl
@[simp] theorem State.withCommandWords_fltW (s : State) (ws : List Word) :
    (s.withCommandWords ws).fltW = s.fltW := rfl
@[simp] theorem State.withCommandWords_fltCh4 (s : State) (ws : List Word) :
    (s.withCommandWords ws).fltCh4 = s.fltCh4 := rfl
@[simp] theorem State.withCommandWords_err (s : State) (ws : List Word) :
    (s.withCommandWords ws).err = s.err := rfl
@[simp] theorem State.withCommandWords_errCode (s : State) (ws : List Word) :
    (s.withCommandWords ws).errCode = s.errCode := rfl
@[simp] theorem State.withCommandWords_errCmd (s : State) (ws : List Word) :
    (s.withCommandWords ws).errCmd = s.errCmd := rfl
@[simp] theorem State.withCommandWords_asmWords (s : State) (ws : List Word) :
    (s.withCommandWords ws).asmWords = [] := rfl
@[simp] theorem State.withCommandWords_current (s : State) (ws : List Word) :
    (s.withCommandWords ws).current = none := rfl
@[simp] theorem State.withCommandWords_cmdq (s : State) (ws : List Word) :
    (s.withCommandWords ws).cmdq = ws ++ s.cmdq := rfl
@[simp] theorem State.withCommandWords_inq (s : State) (ws : List Word) :
    (s.withCommandWords ws).inq = s.inq := rfl
@[simp] theorem State.withCommandWords_outq (s : State) (ws : List Word) :
    (s.withCommandWords ws).outq = s.outq := rfl

/-! ## emitted -/

@[simp] theorem State.emitted_crc (s : State) (e : List Byte) :
    (s.emitted e).crc = (if s.chkOpen then e.foldl crcByte s.crc else s.crc) := rfl
@[simp] theorem State.emitted_adlA (s : State) (e : List Byte) :
    (s.emitted e).adlA = s.adlA := rfl
@[simp] theorem State.emitted_adlB (s : State) (e : List Byte) :
    (s.emitted e).adlB = s.adlB := rfl
@[simp] theorem State.emitted_chkOpen (s : State) (e : List Byte) :
    (s.emitted e).chkOpen = s.chkOpen := rfl
@[simp] theorem State.emitted_chkRem (s : State) (e : List Byte) :
    (s.emitted e).chkRem = (if s.chkOpen then s.chkRem - BitVec.ofNat 32 e.length else s.chkRem) := rfl
@[simp] theorem State.emitted_zOpen (s : State) (e : List Byte) :
    (s.emitted e).zOpen = s.zOpen := rfl
@[simp] theorem State.emitted_zRem (s : State) (e : List Byte) :
    (s.emitted e).zRem = s.zRem := rfl
@[simp] theorem State.emitted_zBlk (s : State) (e : List Byte) :
    (s.emitted e).zBlk = s.zBlk := rfl
@[simp] theorem State.emitted_zHdr (s : State) (e : List Byte) :
    (s.emitted e).zHdr = s.zHdr := rfl
@[simp] theorem State.emitted_fltW (s : State) (e : List Byte) :
    (s.emitted e).fltW = s.fltW := rfl
@[simp] theorem State.emitted_fltCh4 (s : State) (e : List Byte) :
    (s.emitted e).fltCh4 = s.fltCh4 := rfl
@[simp] theorem State.emitted_err (s : State) (e : List Byte) :
    (s.emitted e).err = s.err := rfl
@[simp] theorem State.emitted_errCode (s : State) (e : List Byte) :
    (s.emitted e).errCode = s.errCode := rfl
@[simp] theorem State.emitted_errCmd (s : State) (e : List Byte) :
    (s.emitted e).errCmd = s.errCmd := rfl
@[simp] theorem State.emitted_asmWords (s : State) (e : List Byte) :
    (s.emitted e).asmWords = s.asmWords := rfl
@[simp] theorem State.emitted_current (s : State) (e : List Byte) :
    (s.emitted e).current = s.current := rfl
@[simp] theorem State.emitted_cmdq (s : State) (e : List Byte) :
    (s.emitted e).cmdq = s.cmdq := rfl
@[simp] theorem State.emitted_inq (s : State) (e : List Byte) :
    (s.emitted e).inq = s.inq := rfl
@[simp] theorem State.emitted_outq (s : State) (e : List Byte) :
    (s.emitted e).outq = s.outq ++ e := rfl

end Sys2Proof.Machine
end

