-- ==== Sys2Proof/Laws/Ops.lean ====
section
/-! SUPPORT. What each shared operation does, said once: the streams, the emit chain of 20_memory.md R66-R68, the filter's
routing, and `Execute` (40_control.md R121). -/

namespace Sys2Proof.Machine

/-! ## Streams and the chunk stage -/

theorem State.outAll_eq (s : State) (ys : List Byte) : s.outAll ys = { s with outq := s.outq ++ ys } := by
  induction ys generalizing s with
  | nil => simp [State.outAll]
  | cons y ys ih =>
    change (s.outPush y).outAll ys = _
    rw [ih]
    simp [State.outPush]

theorem State.emitted_nil (s : State) : s.emitted [] = s := by
  cases s
  simp [State.emitted]

theorem State.emitC_eq (s : State) (b : Byte) : s.emitC b = s.emitted [b] := by
  unfold State.emitC State.emitted State.outPush
  split <;> rename_i h <;> simp [h]

theorem State.emitted_emitted (s : State) (d e : List Byte) : (s.emitted d).emitted e = s.emitted (d ++ e) := by
  unfold State.emitted
  by_cases h : s.chkOpen
  · simp [h, List.append_assoc, List.foldl_append, BitVec.ofNat_add, BitVec.sub_sub]
  · simp [h, List.append_assoc]

/-- `EmitC` on a list of bytes, said at once (R66). -/
theorem State.emitAll_eq (s : State) (ys : List Byte) : s.emitAll ys = s.emitted ys := by
  induction ys generalizing s with
  | nil => rw [State.emitted_nil]; rfl
  | cons y ys ih =>
    change (s.emitC y).emitAll ys = _
    rw [ih, State.emitC_eq, State.emitted_emitted]
    rfl

theorem State.emitted_closed (s : State) (e : List Byte) (h : s.chkOpen = false) :
    s.emitted e = { s with outq := s.outq ++ e } := by
  simp [State.emitted, h]

theorem State.emitted_open (s : State) (e : List Byte) (h : s.chkOpen = true) :
    s.emitted e = { s with outq := s.outq ++ e, crc := e.foldl crcByte s.crc,
                           chkRem := s.chkRem - BitVec.ofNat 32 e.length } := by
  simp [State.emitted, h]

/-! ## The framer stage -/

/-- One `FeedZ`, said with `emitted` (R67): the block header if a block starts here, then the byte. -/
theorem State.feedZ_eq (s : State) (x : Byte) :
    s.feedZ x =
      { (if s.zBlk = 0#16 then
          s.emitted (storedHeader (decide (s.zRem.toNat ≤ storedMax))
            (BitVec.ofNat 16 (min s.zRem.toNat storedMax)) ++ [x])
        else s.emitted [x]) with
        adlA := (adlByte (s.adlA, s.adlB) x).1
        adlB := (adlByte (s.adlA, s.adlB) x).2
        zRem := s.zRem - 1#32
        zBlk := (if s.zBlk = 0#16 then BitVec.ofNat 16 (min s.zRem.toNat storedMax) else s.zBlk) - 1#16
        zHdr := s.zHdr || decide (s.zBlk = 0#16) } := by
  by_cases h : s.zBlk = 0#16
  · simp only [State.feedZ, State.startBlock, State.feedPayload, State.emitAll_eq, State.emitC_eq, h, if_true,
      decide_true, Bool.or_true]
    rw [← State.emitted_emitted]
    rfl
  · simp only [State.feedZ, State.feedPayload, State.emitC_eq, h, if_false, decide_false, Bool.or_false]
    rfl

/-- A payload byte that starts a stored block (R67). -/
theorem framedBytes_start (rem : Nat) (x : Byte) (xs : List Byte) :
    framedBytes rem 0 (x :: xs) =
      (storedHeader (decide (rem ≤ storedMax)) (BitVec.ofNat 16 (min rem storedMax)) ++ [x])
        ++ framedBytes (rem - 1) (min rem storedMax - 1) xs := by
  simp [framedBytes]

/-- A payload byte inside a stored block (R67). -/
theorem framedBytes_inside (rem : Nat) {blk : Nat} (h : blk ≠ 0) (x : Byte) (xs : List Byte) :
    framedBytes rem blk (x :: xs) = [x] ++ framedBytes (rem - 1) (blk - 1) xs := by
  simp [framedBytes, h]

/-- `FeedZ` on payload bytes that fit what the stream still expects, said at once (R67, R184). -/
theorem State.feedAll_eq (s : State) (p : List Byte) (h : p.length ≤ s.zRem.toNat) : s.feedAll p = s.framed p := by
  induction p generalizing s with
  | nil =>
    cases s
    simp [State.feedAll, State.framed, State.emitted, framedBytes, blockLeft]
  | cons x xs ih =>
    have hr : (s.zRem - 1#32).toNat = s.zRem.toNat - 1 := by
      have := s.zRem.isLt
      simp only [List.length_cons] at h
      bv_omega
    have hx : xs.length ≤ (s.zRem - 1#32).toNat := by simp only [List.length_cons] at h; omega
    change (s.feedZ x).feedAll xs = _
    rw [State.feedZ_eq, ih _ hx]
    have h1 : BitVec.ofNat 32 (xs.length + 1) = 1#32 + BitVec.ofNat 32 xs.length := by
      rw [Nat.add_comm, BitVec.ofNat_add]
    by_cases hz : s.zBlk = 0#16
    · have hl : ((BitVec.ofNat 16 (min s.zRem.toNat storedMax) : BitVec 16) - 1#16).toNat
          = min s.zRem.toNat storedMax - 1 := by
        simp only [List.length_cons] at h
        have : 1 ≤ min s.zRem.toNat storedMax ∧ min s.zRem.toNat storedMax < 65536 := by
          unfold storedMax; omega
        generalize min s.zRem.toNat storedMax = m at *
        bv_omega
      have hz' : (0#16).toNat = 0 := rfl
      simp only [State.framed, hz, hz', if_true, hr, hl, decide_true, Bool.or_true, Bool.true_or, framedBytes_start,
        blockLeft, List.length_cons, List.foldl_cons, h1, ← BitVec.sub_sub, gt_iff_lt, Nat.zero_lt_succ]
      rw [← State.emitted_emitted s (_ ++ [x]) (framedBytes _ _ xs)]
      rfl
    · have hz' : s.zBlk.toNat ≠ 0 := fun h0 => hz (BitVec.eq_of_toNat_eq (by simpa using h0))
      have hl : (s.zBlk - 1#16).toNat = s.zBlk.toNat - 1 := by bv_omega
      simp only [State.framed, hz, hz', if_false, hr, hl, decide_false, Bool.or_false, framedBytes_inside _ hz',
        blockLeft, List.length_cons, List.foldl_cons, h1, ← BitVec.sub_sub]
      rw [← State.emitted_emitted s [x] (framedBytes _ _ xs)]
      have hd : decide (xs.length > s.zBlk.toNat - 1) = decide (xs.length + 1 > s.zBlk.toNat) := by
        apply decide_eq_decide.mpr; omega
      rw [hd]
      rfl

theorem State.routeAll_stream (s : State) (p : List Byte) (h : s.zOpen = true) : s.routeAll p = s.feedAll p := by
  induction p generalizing s with
  | nil => rfl
  | cons x xs ih =>
    change (s.route x).routeAll xs = (s.feedZ x).feedAll xs
    have hz : (s.feedZ x).zOpen = true := by
      rw [State.feedZ_eq]
      split <;> exact h
    rw [State.route, if_pos h, ih _ hz]

theorem State.routeAll_no_stream (s : State) (p : List Byte) (h : s.zOpen = false) : s.routeAll p = s.emitted p := by
  rw [← State.emitAll_eq]
  induction p generalizing s with
  | nil => rfl
  | cons x xs ih =>
    change (s.route x).routeAll xs = (s.emitC x).emitAll xs
    have hz : (s.emitC x).zOpen = false := by rw [State.emitC_eq]; exact h
    rw [State.route, if_neg (by simp [h]), ih _ hz]

/-! ## `Execute` -/

theorem firstError_eq_none {a b c : Bool} : firstError a b c = none ↔ a = false ∧ b = false ∧ c = false := by
  cases a <;> cases b <;> cases c <;> simp [firstError]

theorem execute_discards {i : Instr} {check : Option ErrCode} {perform : State → State} {s : State}
    (h : s.err = true) : execute i check perform s = .next s := by
  simp [execute, h]

theorem execute_fails {i : Instr} {code : ErrCode} {perform : State → State} {s : State} (h : s.err = false) :
    execute i (some code) perform s = .next (s.raiseError code i.word0) := by
  simp [execute, h]

theorem execute_waits {i : Instr} {perform : State → State} {s : State} (h : s.err = false)
    (hn : s.inq.length < needBytes i s) : execute i none perform s = .next (s.await i) := by
  simp [execute, h, hn]

theorem execute_performs {i : Instr} {perform : State → State} {s : State} (h : s.err = false)
    (hn : needBytes i s ≤ s.inq.length) : execute i none perform s = .next (perform s) := by
  simp [execute, h, Nat.not_lt.mpr hn]

/-- Everything `Execute` can answer (R121-R123, R127): always a next state, and one of four. -/
theorem execute_cases {i : Instr} {check : Option ErrCode} {perform : State → State} {s t : State}
    (h : execute i check perform s = .next t) :
    (s.err = true ∧ t = s) ∨
    (s.err = false ∧ ∃ code, check = some code ∧ t = s.raiseError code i.word0) ∨
    (s.err = false ∧ check = none ∧ s.inq.length < needBytes i s ∧ t = s.await i) ∨
    (s.err = false ∧ check = none ∧ needBytes i s ≤ s.inq.length ∧ t = perform s) := by
  cases he : s.err with
  | true => rw [execute_discards he] at h; cases h; simp
  | false =>
    cases check with
    | some code => rw [execute_fails he] at h; cases h; simp
    | none =>
      rcases Nat.lt_or_ge s.inq.length (needBytes i s) with hn | hn
      · rw [execute_waits he hn] at h; cases h; simp [hn]
      · rw [execute_performs he hn] at h; cases h; simp [hn]

end Sys2Proof.Machine
end

