-- ==== Sys2Proof/Laws/Exec.lean ====
section
/-! SUPPORT. What `exec` and `step` can do, said once: `Execute` with each command's check and effect (40_control.md R121;
60_exceptions.md R282), the fields every command leaves alone, and the cases of a step. -/

namespace Sys2Proof.Machine

/-! ## The framer keeps what it does not write (20_memory.md R67) -/

/-- `t` is `s` but for what the framer writes: the sums, the counts of the stream and of the chunk, the CRC, and bytes
added to the output. -/
structure State.FramerOnly (s t : State) : Prop where
  asmWords : t.asmWords = s.asmWords
  cmdq : t.cmdq = s.cmdq
  current : t.current = s.current
  inq : t.inq = s.inq
  err : t.err = s.err
  errCode : t.errCode = s.errCode
  errCmd : t.errCmd = s.errCmd
  chkOpen : t.chkOpen = s.chkOpen
  zOpen : t.zOpen = s.zOpen
  fltW : t.fltW = s.fltW
  fltCh4 : t.fltCh4 = s.fltCh4
  outq : ∃ e, t.outq = s.outq ++ e

theorem State.feedZ_frame (s : State) (x : Byte) : s.FramerOnly (s.feedZ x) := by
  rw [State.feedZ_eq]
  split <;> exact ⟨rfl, rfl, rfl, rfl, rfl, rfl, rfl, rfl, rfl, rfl, rfl, _, rfl⟩

theorem State.feedAll_frame (s : State) (p : List Byte) : s.FramerOnly (s.feedAll p) := by
  induction p generalizing s with
  | nil => exact ⟨rfl, rfl, rfl, rfl, rfl, rfl, rfl, rfl, rfl, rfl, rfl, [], by simp [State.feedAll]⟩
  | cons x xs ih =>
    have h := s.feedZ_frame x
    have g := ih (s.feedZ x)
    obtain ⟨d, hd⟩ := h.outq
    obtain ⟨e, he⟩ := g.outq
    exact ⟨g.asmWords.trans h.asmWords, g.cmdq.trans h.cmdq, g.current.trans h.current, g.inq.trans h.inq,
      g.err.trans h.err, g.errCode.trans h.errCode, g.errCmd.trans h.errCmd, g.chkOpen.trans h.chkOpen,
      g.zOpen.trans h.zOpen, g.fltW.trans h.fltW, g.fltCh4.trans h.fltCh4, d ++ e, by
        change ((s.feedZ x).feedAll xs).outq = _
        rw [he, hd, List.append_assoc]⟩

/-! ## Checks and effects -/

/-- The check each command's meaning hands to `Execute` (R282). -/
def checkOf (i : Instr) (s : State) : Option ErrCode :=
  match i with
  | .nop | .srst => none
  | .raw _ | .crcPut | .adlPut => firstError (s.chkOpen || s.zOpen) false false
  | .crcInit | .crcFeed _ => firstError s.chkOpen false false
  | .adlInit | .adlFeed _ => firstError s.zOpen false false
  | .zlbBegin N => firstError s.zOpen false (s.chkOpen && decide (zsize N.toNat > s.chkRem.toNat))
  | .zlbData n => firstError (!s.zOpen) false (decide (n > s.zRem.toNat))
  | .zlbEnd => firstError (!s.zOpen) false (s.zRem != 0#32)
  | .chkBegin _ T => firstError (s.chkOpen || s.zOpen) (!tagOk T) false
  | .chkData n => firstError (!s.chkOpen || s.zOpen) false (decide (n > s.chkRem.toNat))
  | .chkEnd => firstError (!s.chkOpen || s.zOpen) false (s.chkRem != 0#32)
  | .fltCfg ch W => firstError false (!(decide (ch = 3) || decide (ch = 4)) || W == 0#32) false
  | .fltRows r => firstError (s.fltW == 0#32) false
      ((s.zOpen && decide (filteredLength r s.fltW.toNat > s.zRem.toNat)) ||
       (!s.zOpen && s.chkOpen && decide (filteredLength r s.fltW.toNat > s.chkRem.toNat)))

/-- The effect each command's meaning hands to `Execute`. -/
def performOf : Instr → State → State
  | .nop => id
  | .srst => State.softReset
  | .raw n => performRaw n
  | .crcInit => performCrcInit
  | .crcFeed n => performCrcFeed n
  | .crcPut => performCrcPut
  | .adlInit => performAdlInit
  | .adlFeed n => performAdlFeed n
  | .adlPut => performAdlPut
  | .zlbBegin N => performZlbBegin N
  | .zlbData n => performZlbData n
  | .zlbEnd => performZlbEnd
  | .chkBegin L T => performChkBegin L T
  | .chkData n => performChkData n
  | .chkEnd => performChkEnd
  | .fltCfg ch W => performFltCfg ch W
  | .fltRows r => performFltRows r

/-- Every command but SRST is `Execute` (R121); SRST acts in the error state too (R125). -/
theorem exec_eq (i : Instr) (s : State) (h : i ≠ .srst) : exec i s = execute i (checkOf i s) (performOf i) s := by
  cases i <;> first | rfl | exact absurd rfl h

theorem exec_srst (s : State) : exec .srst s = .next s.softReset := rfl

theorem firstError_some {a b c : Bool} {e} : firstError a b c = some e ↔
    (a = true ∧ e = .badState) ∨ (a = false ∧ b = true ∧ e = .badArg) ∨
      (a = false ∧ b = false ∧ c = true ∧ e = .badLen) := by
  cases a <;> cases b <;> cases c <;> simp [firstError] <;> exact eq_comm

theorem tagOk_iff (T : Word) (L : Word) : tagOk T = false ↔ badArgIf (.chkBegin L T) := by
  simp only [badArgIf, tagOk, List.all_eq_false, isLetter]
  constructor
  · rintro ⟨b, hb, h⟩; exact ⟨b, hb, by simpa using h⟩
  · rintro ⟨b, hb, h⟩; exact ⟨b, hb, by simpa using h⟩

/-- The check of a command, column by column (R282), in the order of R284. -/
theorem check_some (i : Instr) (s : State) (e : ErrCode) : checkOf i s = some e ↔
    (badStateIf i s ∧ e = .badState) ∨ (¬badStateIf i s ∧ badArgIf i ∧ e = .badArg) ∨
    (¬badStateIf i s ∧ ¬badArgIf i ∧ badLenIf i s ∧ e = .badLen) := by
  cases i
  case chkBegin L T =>
    rw [← tagOk_iff T L]
    simp [checkOf, firstError_some, badStateIf, badLenIf]
  case fltCfg ch W =>
    have : ((!(decide (ch = 3) || decide (ch = 4)) || W == 0#32) = true) ↔ badArgIf (.fltCfg ch W) := by simp [badArgIf]
    simp only [checkOf, firstError_some, badStateIf, badLenIf, this]; simp
  case fltRows r =>
    simp only [checkOf, firstError_some, badStateIf, badArgIf, badLenIf, filteredLength]
    simp [and_assoc]
  all_goals simp [checkOf, firstError_some, badStateIf, badArgIf, badLenIf]

theorem check_none (i : Instr) (s : State) : checkOf i s = none ↔ Passes i s := by
  have h := check_some i s
  constructor
  · intro hn
    rw [hn] at h
    refine ⟨fun hb => ?_, ?_⟩
    · exact absurd ((h .badState).2 (.inl ⟨hb, rfl⟩)) (by simp)
    · by_cases hb : badStateIf i s
      · exact absurd ((h .badState).2 (.inl ⟨hb, rfl⟩)) (by simp)
      · by_cases ha : badArgIf i
        · exact absurd ((h .badArg).2 (.inr (.inl ⟨hb, ha, rfl⟩))) (by simp)
        · exact ⟨ha, fun hl => absurd ((h .badLen).2 (.inr (.inr ⟨hb, ha, hl, rfl⟩))) (by simp)⟩
  · rintro ⟨a, b, c⟩
    cases hc : checkOf i s with
    | none => rfl
    | some e => have := (h e).1 hc; tauto

theorem passes_srst (s : State) : Passes .srst s := by simp [Passes, badStateIf, badArgIf, badLenIf]

/-- Everything `exec` can answer (R121-R123, R127): always a next state, and one of four. -/
theorem exec_cases {i : Instr} {s t : State} (h : exec i s = .next t) :
    (s.err = true ∧ i ≠ .srst ∧ t = s) ∨
    (s.err = false ∧ i ≠ .srst ∧ ∃ c, c ≠ .noError ∧ checkOf i s = some c ∧ t = s.raiseError c i.word0) ∨
    (s.err = false ∧ i ≠ .srst ∧ Passes i s ∧ s.inq.length < needBytes i s ∧ t = s.await i) ∨
    ((s.err = false ∨ i = .srst) ∧ Passes i s ∧ needBytes i s ≤ s.inq.length ∧ t = performOf i s) := by
  by_cases hs : i = .srst
  · subst hs; cases h
    exact .inr (.inr (.inr ⟨.inr rfl, passes_srst s, by simp [needBytes], rfl⟩))
  · rw [exec_eq i s hs] at h
    rcases execute_cases h with ⟨a, b⟩ | ⟨a, c, hc, b⟩ | ⟨a, hc, b, d⟩ | ⟨a, hc, b, d⟩
    · exact .inl ⟨a, hs, b⟩
    · refine .inr (.inl ⟨a, hs, c, ?_, hc, b⟩)
      rintro rfl
      have := (check_some i s _).1 hc
      simp at this
    · exact .inr (.inr (.inl ⟨a, hs, (check_none i s).1 hc, b, d⟩))
    · exact .inr (.inr (.inr ⟨.inl a, (check_none i s).1 hc, b, d⟩))

theorem exec_performs {i : Instr} {s : State} (he : s.err = false) (hp : Passes i s)
    (hn : needBytes i s ≤ s.inq.length) :
    exec i s = .next (performOf i s) := by
  by_cases hs : i = .srst
  · subst hs; rfl
  · rw [exec_eq i s hs, (check_none i s).2 hp, execute_performs he hn]

theorem exec_fails {i : Instr} {s : State} {c} (he : s.err = false) (hp : checkOf i s = some c) :
    FailsWith i s c := by
  by_cases hs : i = .srst
  · subst hs; cases hp
  · rw [FailsWith, exec_eq i s hs, hp, execute_fails he]; rfl

theorem exec_waits {i : Instr} {s : State} (he : s.err = false) (hp : Passes i s) (hn : s.inq.length < needBytes i s) :
    exec i s = .next (s.await i) := by
  by_cases hs : i = .srst
  · subst hs; simp [needBytes] at hn
  · rw [exec_eq i s hs, (check_none i s).2 hp, execute_waits he hn]

theorem exec_err {i : Instr} {s : State} (he : s.err = true) (hi : i ≠ .srst) : exec i s = .next s := by
  rw [exec_eq i s hi, execute_discards he]

/-- What no effect but SRST's touches: the command words, the command in execution, the error record; and that it consumes
exactly `Need(w)` bytes. -/
structure EffectFrame (i : Instr) (s t : State) : Prop where
  asmWords : t.asmWords = s.asmWords
  cmdq : t.cmdq = s.cmdq
  current : t.current = s.current
  inq : t.inq = s.inq.drop (needBytes i s)
  err : i ≠ .srst → t.err = s.err
  errCode : i ≠ .srst → t.errCode = s.errCode
  errCmd : i ≠ .srst → t.errCmd = s.errCmd

theorem performOf_frame (i : Instr) (s : State) : EffectFrame i s (performOf i s) := by
  cases i <;> dsimp only [performOf]
  case srst => exact ⟨rfl, rfl, rfl, rfl, fun h => absurd rfl h, fun h => absurd rfl h, fun h => absurd rfl h⟩
  case nop | crcInit | crcFeed | adlInit | adlFeed | fltCfg =>
    exact ⟨rfl, rfl, rfl, rfl, fun _ => rfl, fun _ => rfl, fun _ => rfl⟩
  case raw => rw [performRaw, State.outAll_eq]; exact ⟨rfl, rfl, rfl, rfl, fun _ => rfl, fun _ => rfl, fun _ => rfl⟩
  case crcPut =>
    rw [performCrcPut, State.outAll_eq]; exact ⟨rfl, rfl, rfl, rfl, fun _ => rfl, fun _ => rfl, fun _ => rfl⟩
  case adlPut =>
    rw [performAdlPut, State.outAll_eq]; exact ⟨rfl, rfl, rfl, rfl, fun _ => rfl, fun _ => rfl, fun _ => rfl⟩
  case zlbBegin =>
    rw [performZlbBegin, State.emitAll_eq]; exact ⟨rfl, rfl, rfl, rfl, fun _ => rfl, fun _ => rfl, fun _ => rfl⟩
  case chkBegin =>
    rw [performChkBegin, State.outAll_eq, State.outAll_eq]
    exact ⟨rfl, rfl, rfl, rfl, fun _ => rfl, fun _ => rfl, fun _ => rfl⟩
  case chkData =>
    rw [performChkData, State.emitAll_eq]; exact ⟨rfl, rfl, rfl, rfl, fun _ => rfl, fun _ => rfl, fun _ => rfl⟩
  case chkEnd =>
    rw [performChkEnd, State.outAll_eq]; exact ⟨rfl, rfl, rfl, rfl, fun _ => rfl, fun _ => rfl, fun _ => rfl⟩
  case zlbData n =>
    have h := (s.inDrop n).feedAll_frame (s.inBytes n)
    exact ⟨h.asmWords, h.cmdq, h.current, h.inq, fun _ => h.err, fun _ => h.errCode, fun _ => h.errCmd⟩
  case zlbEnd =>
    simp only [performZlbEnd, emitEmptyBlock, State.emitAll_eq]
    split <;> exact ⟨rfl, rfl, rfl, rfl, fun _ => rfl, fun _ => rfl, fun _ => rfl⟩
  case fltRows r =>
    unfold performFltRows
    dsimp only
    cases hz : s.zOpen with
    | true =>
      rw [State.routeAll_stream (s.inDrop _) _ hz]
      have h := (s.inDrop (needBytes (.fltRows r) s)).feedAll_frame
        (filterRows s.fltCh4 s.fltW.toNat r (s.inBytes (needBytes (.fltRows r) s)))
      exact ⟨h.asmWords, h.cmdq, h.current, h.inq, fun _ => h.err, fun _ => h.errCode, fun _ => h.errCmd⟩
    | false =>
      rw [State.routeAll_no_stream (s.inDrop _) _ hz]
      exact ⟨rfl, rfl, rfl, rfl, fun _ => rfl, fun _ => rfl, fun _ => rfl⟩

/-- What no answer of `exec` touches: the command words; and the command in execution, but to make it the one that waits. -/
theorem exec_frame {i : Instr} {s t : State} (h : exec i s = .next t) : t.asmWords = s.asmWords ∧ t.cmdq = s.cmdq ∧
    (t.current = s.current ∨ (t.current = some i ∧ s.inq.length < needBytes i s)) := by
  rcases exec_cases h with ⟨_, _, rfl⟩ | ⟨_, _, c, _, _, rfl⟩ | ⟨_, _, _, hn, rfl⟩ | ⟨_, _, _, rfl⟩
  · exact ⟨rfl, rfl, .inl rfl⟩
  · exact ⟨rfl, rfl, .inl rfl⟩
  · exact ⟨rfl, rfl, .inr ⟨rfl, hn⟩⟩
  · have h := performOf_frame i s
    exact ⟨h.asmWords, h.cmdq, .inl h.current⟩

/-! ## The step -/

theorem step_current {s : State} {i : Instr} (hc : s.current = some i) : step s = exec i s.resume := by
  simp [step, cycle, hc]

theorem step_illegal {s : State} {why : Illegal} {w0 : Word} {rest : List Word} (hc : s.current = none)
    (hd : decode s.commandWords = .illegal why w0 rest) :
    step s = executeIllegal why w0 (s.taken rest) := by
  simp [step, cycle, hc, hd]

theorem step_command {s : State} {i rest} (hc : s.current = none) (hd : decode s.commandWords = .command i rest) :
    step s = exec i (s.taken rest) := by
  simp [step, cycle, hc, hd]

theorem step_incomplete {s : State} (hc : s.current = none) (hd : decode s.commandWords = .incomplete) :
    step s = .next s.assemble := by
  simp [step, cycle, hc, hd]

/-- Everything a step can do (R120, R121). -/
theorem step_cases {s t : State} (h : step s = .next t) :
    (∃ i, s.current = some i ∧ exec i s.resume = .next t) ∨
    (s.current = none ∧ decode s.commandWords = .incomplete ∧ t = s.assemble) ∨
    (s.current = none ∧ ∃ why w0 rest, decode s.commandWords = .illegal why w0 rest ∧
       ((s.err = true ∧ t = s.taken rest) ∨ (s.err = false ∧ t = (s.taken rest).raiseError (illegalCode why) w0))) ∨
    (s.current = none ∧ ∃ i rest, decode s.commandWords = .command i rest ∧ exec i (s.taken rest) = .next t) := by
  cases hc : s.current with
  | some i => rw [step_current hc] at h; exact .inl ⟨i, rfl, h⟩
  | none =>
    cases hd : decode s.commandWords with
    | incomplete => rw [step_incomplete hc hd] at h; cases h; exact .inr (.inl ⟨rfl, rfl, rfl⟩)
    | illegal why w rest =>
      rw [step_illegal hc hd] at h
      unfold executeIllegal at h
      refine .inr (.inr (.inl ⟨rfl, why, w, rest, rfl, ?_⟩))
      split at h <;> rename_i he <;> cases h
      · exact .inl ⟨he, rfl⟩
      · exact .inr ⟨by simpa using he, rfl⟩
    | command i rest =>
      rw [step_command hc hd] at h
      exact .inr (.inr (.inr ⟨rfl, i, rest, rfl, h⟩))

end Sys2Proof.Machine
end

