-- ==== Sys2Proof/Laws/PerInstr.lean ====
section
/-! SUPPORT. Statements for all commands, one lemma per constructor. `Framing`: the encoder gives a command as many words
as its opcode alone says (30_encoding.md R92). -/

namespace Sys2Proof.Laws

/-- The length of a command is the length its word 0's opcode sets (R92). -/
def Framing.Statement (i : Instr) : Prop := (encode i).length = commandLength i.word0

theorem Framing.nop : Framing.Statement .nop := by
  rw [Framing.Statement, commandLength_word0]; rfl

theorem Framing.srst : Framing.Statement .srst := by
  rw [Framing.Statement, commandLength_word0]; rfl

theorem Framing.raw (n : Nat) : Framing.Statement (.raw n) := by
  rw [Framing.Statement, commandLength_word0]; rfl

theorem Framing.crcInit : Framing.Statement .crcInit := by
  rw [Framing.Statement, commandLength_word0]; rfl

theorem Framing.crcFeed (n : Nat) : Framing.Statement (.crcFeed n) := by
  rw [Framing.Statement, commandLength_word0]; rfl

theorem Framing.crcPut : Framing.Statement .crcPut := by
  rw [Framing.Statement, commandLength_word0]; rfl

theorem Framing.adlInit : Framing.Statement .adlInit := by
  rw [Framing.Statement, commandLength_word0]; rfl

theorem Framing.adlFeed (n : Nat) : Framing.Statement (.adlFeed n) := by
  rw [Framing.Statement, commandLength_word0]; rfl

theorem Framing.adlPut : Framing.Statement .adlPut := by
  rw [Framing.Statement, commandLength_word0]; rfl

theorem Framing.zlbBegin (N : Word) : Framing.Statement (.zlbBegin N) := by
  rw [Framing.Statement, commandLength_word0]; rfl

theorem Framing.zlbData (n : Nat) : Framing.Statement (.zlbData n) := by
  rw [Framing.Statement, commandLength_word0]; rfl

theorem Framing.zlbEnd : Framing.Statement .zlbEnd := by
  rw [Framing.Statement, commandLength_word0]; rfl

theorem Framing.chkBegin (L T : Word) : Framing.Statement (.chkBegin L T) := by
  rw [Framing.Statement, commandLength_word0]; rfl

theorem Framing.chkData (n : Nat) : Framing.Statement (.chkData n) := by
  rw [Framing.Statement, commandLength_word0]; rfl

theorem Framing.chkEnd : Framing.Statement .chkEnd := by
  rw [Framing.Statement, commandLength_word0]; rfl

theorem Framing.fltCfg (ch : Nat) (W : Word) : Framing.Statement (.fltCfg ch W) := by
  rw [Framing.Statement, commandLength_word0]; rfl

theorem Framing.fltRows (n : Nat) : Framing.Statement (.fltRows n) := by
  rw [Framing.Statement, commandLength_word0]; rfl

end Sys2Proof.Laws
end

