-- ==== Sys2Proof/Laws/Run.lean ====
section
/-! SUPPORT. What a move of the block and its host does, said once per move, and runs of moves (70_reset_and_hazards.md
R324). -/

namespace Sys2Proof.Machine

theorem State.stepped_of_step {s t : State} (h : step s = .next t) : s.stepped = t := by
  rw [State.stepped, h]

@[simp] theorem System.move_step (y : System) : y.move .step = { y with block := y.block.stepped } := rfl

theorem System.move_pushCommand_cons {y : System} {w : Word} {rest : List Word} (h : y.words = w :: rest) :
    y.move .pushCommand = { y with block := y.block.pushCommand w, words := rest } := by
  rw [System.move, h]

theorem System.move_pushCommand_nil {y : System} (h : y.words = []) : y.move .pushCommand = y := by
  rw [System.move, h]

theorem System.move_pushInput_cons {y : System} {b : Byte} {rest : List Byte} (h : y.bytes = b :: rest) :
    y.move .pushInput = { y with block := y.block.pushInput b, bytes := rest } := by
  rw [System.move, h]

theorem System.move_pushInput_nil {y : System} (h : y.bytes = []) : y.move .pushInput = y := by
  rw [System.move, h]

theorem System.move_takeOutput_cons {y : System} {b : Byte} {rest : List Byte} (h : y.block.outq = b :: rest) :
    y.move .takeOutput = { y with block := { y.block with outq := rest }, taken := y.taken ++ [b] } := by
  simp only [System.move, State.takeOutput, h]

theorem System.move_takeOutput_nil {y : System} (h : y.block.outq = []) : y.move .takeOutput = y := by
  simp only [System.move, State.takeOutput, h]

@[simp] theorem System.run_nil (y : System) : y.run [] = y := rfl

@[simp] theorem System.run_cons (y : System) (m : Move) (ms : List Move) : y.run (m :: ms) = (y.move m).run ms := rfl

theorem System.run_append (y : System) (a b : List Move) : y.run (a ++ b) = (y.run a).run b :=
  List.foldl_append

/-- An invariant that every move keeps holds after every run: the induction over moves, once. -/
theorem System.run_keeps {P : System → Prop} (step : ∀ y m, P y → P (y.move m)) (ms : List Move) (y : System)
    (h : P y) : P (y.run ms) := by
  induction ms generalizing y with
  | nil => exact h
  | cons m ms ih => exact ih (y.move m) (step y m h)

theorem System.ended_iff (y : System) :
    y.ended = true ↔ y.words = [] ∧ y.block.busy = false ∧ y.block.outq = [] := by
  simp [System.ended, and_assoc]

theorem State.busy_eq_false (s : State) : s.busy = false ↔ s.cmdq = [] ∧ s.asmWords = [] ∧ s.current = none := by
  simp [State.busy, and_assoc]

end Sys2Proof.Machine
end

