-- ==== Sys2Proof/Tests/Slice0.lean ====
section
/-! SUPPORT. Tests. Expected values come from 95_test_vectors.md (V numbers), from the encodings of 30_encoding.md R93 and
R95, and from the rules named. Then, for every statement of the obligations file that has hypotheses, a state and operands
that meet them together, clause by clause, at the edges of their ranges. -/

namespace Sys2Proof.Tests

open Sys2Proof Sys2Proof.Machine

/-! ## Helpers -/

/-- `s` with these command words at the front and these input bytes queued. -/
def front (s : State) (ws : List Word) (inp : List Byte) : State := { s with cmdq := ws, inq := inp }

/-- The state one step later. -/
def after (s : State) (ws : List Word) (inp : List Byte) : Option State := nextState (step (front s ws inp))

/-- A chunk with `rem` payload bytes to come. -/
def chunk (rem : Word) : State := { State.reset with chkOpen := true, chkRem := rem }

/-- A stream with `rem` payload bytes to come, right after ZLB_BEGIN. -/
def stream (rem : Word) : State := { State.reset with zOpen := true, zRem := rem }

/-- A stream of `rem` bytes inside a chunk that expects `left`. -/
def both (left rem : Word) : State := { chunk left with zOpen := true, zRem := rem }

/-- A configured filter. -/
def filtered (s : State) (ch4 : Bool) (W : Word) : State := { s with fltCh4 := ch4, fltW := W }

/-- The error state after V54. -/
def failed : State := { State.reset with err := true, errCode := .badState, errCmd := 0x31000005#32 }

/-- RAW 3 waits with one byte there. -/
def waiting : State := { State.reset with current := some (.raw 3), inq := [0x78#8] }

/-! ## Well-formedness: each check refuses (30_encoding.md R100) -/

theorem test_wf_raw : (Instr.raw 16777216).wf = false ∧ (Instr.raw 16777215).wf = true := by decide
theorem test_wf_crc_feed : (Instr.crcFeed 16777216).wf = false := by decide
theorem test_wf_adl_feed : (Instr.adlFeed 16777216).wf = false := by decide
theorem test_wf_zlb_data : (Instr.zlbData 16777216).wf = false := by decide
theorem test_wf_chk_data : (Instr.chkData 16777216).wf = false := by decide
theorem test_wf_flt_cfg : (Instr.fltCfg 16777216 1#32).wf = false ∧ (Instr.fltCfg 5 0#32).wf = true := by decide
theorem test_wf_flt_rows : (Instr.fltRows 16777216).wf = false := by decide

/-! ## Decoding: one word per row of R93, written from its OPC column and R95 -/

theorem test_decode_nop : decode [0x00000000#32] = .command .nop [] := by decide
theorem test_decode_srst : decode [0x01000000#32] = .command .srst [] := by decide
theorem test_decode_raw : decode [0x02000003#32, 9#32] = .command (.raw 3) [9#32] := by decide
theorem test_decode_crc_init : decode [0x10000000#32] = .command .crcInit [] := by decide
theorem test_decode_crc_feed : decode [0x1100002B#32] = .command (.crcFeed 43) [] := by decide
theorem test_decode_crc_put : decode [0x12000000#32] = .command .crcPut [] := by decide
theorem test_decode_adl_init : decode [0x20000000#32] = .command .adlInit [] := by decide
theorem test_decode_adl_feed : decode [0x21FFFFFF#32] = .command (.adlFeed 16777215) [] := by decide
theorem test_decode_adl_put : decode [0x22000000#32] = .command .adlPut [] := by decide
theorem test_decode_zlb_begin :
    decode [0x30000000#32, 0x00010000#32, 7#32] = .command (.zlbBegin 65536#32) [7#32] := by decide
theorem test_decode_zlb_data : decode [0x3100FFFF#32] = .command (.zlbData 65535) [] := by decide
theorem test_decode_zlb_end : decode [0x32000000#32] = .command .zlbEnd [] := by decide
theorem test_decode_chk_begin :
    decode [0x40000000#32, 0x0000000D#32, 0x49484452#32, 7#32] = .command (.chkBegin 13#32 0x49484452#32) [7#32] := by
  decide
theorem test_decode_chk_data : decode [0x4100000D#32] = .command (.chkData 13) [] := by decide
theorem test_decode_chk_end : decode [0x42000000#32] = .command .chkEnd [] := by decide
theorem test_decode_flt_cfg : decode [0x50000004#32, 2#32] = .command (.fltCfg 4 2#32) [] := by decide
theorem test_decode_flt_rows : decode [0x51000001#32] = .command (.fltRows 1) [] := by decide

/-- R96, R97, R92: a reserved opcode whatever its IMM (V51), a reserved IMM (V53), a command not whole yet. -/
theorem test_decode_rejects :
    decode [0xFF123456#32, 1#32] = .illegal .reservedOpcode 0xFF123456#32 [1#32] ∧
    decode [0x42000001#32] = .illegal .reservedImm 0x42000001#32 [] ∧
    decode [0x30000001#32, 5#32] = .illegal .reservedImm 0x30000001#32 [] ∧
    decode [0x40000000#32, 0#32] = .incomplete ∧ decode [] = .incomplete := by decide

/-- The opcode table's numbering: argument words it gives no bits are 0; with their bits they are read from them. -/
theorem test_table_word :
    decodeTableWord 32 0x51000002 = some (.fltRows 2) ∧ decodeTableWord 32 0x30000000 = some (.zlbBegin 0#32) ∧
    decodeTableWord 64 (0x50000003 + 7 * 2 ^ 32) = some (.fltCfg 3 7#32) ∧
    decodeTableWord 96 (0x40000000 + 13 * 2 ^ 32 + 0x49484452 * 2 ^ 64) = some (.chkBegin 13#32 0x49484452#32) ∧
    decodeTableWord 32 0x03000000 = none := by decide

/-- The step after reset runs the instruction placed by `withFetchWord`: here CHK_END, which fails its state check and records
its own word 0, and FLT_CFG 4, 2. -/
theorem test_with_fetch_word :
    (nextState (step (State.reset.withFetchWord 32 0x42000000))).map (·.errCmd) = some 0x42000000#32 ∧
    (nextState (step (State.reset.withFetchWord 64 (0x50000004 + 2 * 2 ^ 32)))).map (·.fltW) = some 2#32 := by decide

/-! ## One step each -/

/-- V79; V52. -/
theorem test_nop : after State.reset [0#32] [1#8] = some { State.reset with inq := [1#8] } ∧
    (after State.reset [1#32] []).map (·.status) = some 0x22#32 := by decide

/-- V80: SRST from within a stream in a chunk, with output and input left alone; V69: out of the error state. -/
theorem test_srst : after { both 98#32 50#32 with outq := [0x78#8] } [0x01000000#32] [5#8] =
      some { State.reset with outq := [0x78#8], inq := [5#8] } ∧
    after failed [0x01000000#32] [] = some State.reset ∧ after failed [0x01000001#32] [] = some failed := by decide

/-- V78. -/
theorem test_raw : (after State.reset [0x02000003#32] [0x78#8, 0x79#8, 0x7A#8]).map (·.outq) =
    some [0x78#8, 0x79#8, 0x7A#8] := by decide

/-- V56. -/
theorem test_raw_in_chunk : (after (chunk 0#32) [0x02000001#32] [0x78#8]).map (fun t => (t.status, t.errCmd, t.inq)) =
    some (0x132#32, 0x02000001#32, [0x78#8]) := by decide

/-- V1: CRC_VALUE is 0 whatever it was. -/
theorem test_crc_init : (after { State.reset with crc := 0x1234#32 } [0x10000000#32] []).map (·.register 1#3) =
    some 0#32 := by decide

/-- V57. -/
theorem test_crc_init_in_chunk : (after (chunk 0#32) [0x10000000#32] []).map (·.status) = some 0x132#32 := by decide

/-- V2. -/
theorem test_crc_feed : (after State.reset [0x11000009#32]
    [0x31#8, 0x32#8, 0x33#8, 0x34#8, 0x35#8, 0x36#8, 0x37#8, 0x38#8, 0x39#8]).map (fun t => (t.crc, t.register 1#3)) =
    some (0x340BC6D9#32, 0xCBF43926#32) := by decide +kernel

/-- V10. -/
theorem test_crc_feed_one : (after State.reset [0x11000001#32] [0x61#8]).map (·.register 1#3) =
    some 0xE8B7BE43#32 := by decide +kernel

/-- V71, from V2's `st.crc`. -/
theorem test_crc_put : (after { State.reset with crc := 0x340BC6D9#32 } [0x12000000#32] []).map
    (fun t => (t.outq, t.crc)) = some ([0xCB#8, 0xF4#8, 0x39#8, 0x26#8], 0x340BC6D9#32) := by decide

/-- V3. -/
theorem test_adl_init : (after { State.reset with adlA := 9#16, adlB := 9#16 } [0x20000000#32] []).map (·.register 2#3) =
    some 1#32 := by decide

/-- V4. -/
theorem test_adl_feed : (after State.reset [0x21000009#32]
    [0x57#8, 0x69#8, 0x6B#8, 0x69#8, 0x70#8, 0x65#8, 0x64#8, 0x69#8, 0x61#8]).map (·.register 2#3) =
    some 0x11E60398#32 := by decide +kernel

/-- V58. -/
theorem test_adl_feed_in_stream : (after (stream 1#32) [0x21000001#32] [0x78#8]).map (fun t => (t.status, t.inq)) =
    some (0x232#32, [0x78#8]) := by decide

/-- V76, from V4's sums. -/
theorem test_adl_put : (after { State.reset with adlA := 0x0398#16, adlB := 0x11E6#16 } [0x22000000#32] []).map
    (·.outq) = some [0x11#8, 0xE6#8, 0x03#8, 0x98#8] := by decide

/-- V7's header; R187 sets every field. -/
theorem test_zlb_begin : (after { State.reset with adlB := 5#16, zHdr := true } [0x30000000#32, 3#32] []).map
    (fun t => (t.outq, t.register 2#3, t.register 4#3, t.register 5#3, t.status)) =
    some ([0x78#8, 0x01#8], 1#32, 3#32, 0#32, 0x200#32) := by decide

/-- V66. -/
theorem test_zlb_begin_does_not_fit : (after (chunk 10#32) [0x30000000#32, 0#32] []).map
    (fun t => (t.status, t.errCmd, t.chkRem)) = some (0x152#32, 0x30000000#32, 10#32) := by decide

/-- V25: a header and the byte of a final block. -/
theorem test_zlb_data : (after (stream 1#32) [0x31000001#32] [0x61#8]).map (·.outq) =
    some [0x01#8, 0x01#8, 0x00#8, 0xFE#8, 0xFF#8, 0x61#8] := by decide +kernel

/-- V27: the first block of two. -/
theorem test_zlb_data_first_block : (after (stream 65536#32) [0x31000001#32] [0x03#8]).map
    (fun t => (t.outq, t.register 4#3, t.register 5#3, t.register 2#3)) =
    some ([0x00#8, 0xFF#8, 0xFF#8, 0x00#8, 0x00#8, 0x03#8], 0xFFFF#32, 0x0001FFFE#32, 0x00040004#32) := by
  decide +kernel

/-- V7: the empty final block, then the trailer. -/
theorem test_zlb_end : (after (stream 0#32) [0x32000000#32] []).map (fun t => (t.outq, t.register 5#3, t.status)) =
    some ([0x01#8, 0x00#8, 0x00#8, 0xFF#8, 0xFF#8, 0x00#8, 0x00#8, 0x00#8, 0x01#8], 0x10000#32, 0#32) := by
  decide +kernel

/-- V67. -/
theorem test_zlb_end_too_early : (after (stream 1#32) [0x32000000#32] []).map (·.status) = some 0x252#32 := by decide

/-- V40: length and tag out; the CRC is that of the tag alone. -/
theorem test_chk_begin : (after State.reset [0x40000000#32, 0#32, 0x49454E44#32] []).map
    (fun t => (t.outq, t.register 1#3, t.status)) =
    some ([0x00#8, 0x00#8, 0x00#8, 0x00#8, 0x49#8, 0x45#8, 0x4E#8, 0x44#8], 0xAE426082#32, 0x100#32) := by
  decide +kernel

/-- V61. -/
theorem test_chk_begin_bad_tag : (after State.reset [0x40000000#32, 0#32, 0x49483152#32] []).map
    (fun t => (t.status, t.errCmd)) = some (0x42#32, 0x40000000#32) := by decide

/-- V65: from the CRC of the tag (V64), two bytes of payload. -/
theorem test_chk_data : (after { chunk 3#32 with crc := 0x9642C585#32 ^^^ 0xFFFFFFFF#32 } [0x41000002#32]
    [0x61#8, 0x62#8]).map (fun t => (t.outq, t.register 1#3, t.chkRem)) =
    some ([0x61#8, 0x62#8], 0x3379841E#32, 1#32) := by decide +kernel

/-- V64. -/
theorem test_chk_data_too_long : (after (chunk 3#32) [0x41000004#32] [0x61#8, 0x62#8, 0x63#8, 0x64#8]).map
    (fun t => (t.status, t.inq.length)) = some (0x152#32, 4) := by decide

/-- V40. -/
theorem test_chk_end : (after { chunk 0#32 with crc := 0xAE426082#32 ^^^ 0xFFFFFFFF#32 } [0x42000000#32] []).map
    (fun t => (t.outq, t.status, t.register 1#3)) =
    some ([0xAE#8, 0x42#8, 0x60#8, 0x82#8], 0#32, 0xAE426082#32) := by decide

/-- V53. -/
theorem test_chk_end_reserved_imm : (after State.reset [0x42000001#32] []).map (fun t => (t.status, t.errCmd)) =
    some (0x22#32, 0x42000001#32) := by decide

/-- V31's configuration. -/
theorem test_flt_cfg : (after State.reset [0x50000004#32, 2#32] []).map (fun t => (t.status, t.register 6#3)) =
    some (0xC00#32, 2#32) := by decide

/-- V62, V63. -/
theorem test_flt_cfg_bad_arg : (after State.reset [0x50000005#32, 1#32] []).map (·.status) = some 0x42#32 ∧
    (after State.reset [0x50000003#32, 0#32] []).map (·.status) = some 0x42#32 := by decide

/-- V32. -/
theorem test_flt_rows : (after (filtered State.reset true 2#32) [0x51000001#32]
    [0x01#8, 0x02#8, 0x03#8, 0xAA#8, 0x04#8, 0x05#8, 0x06#8, 0xBB#8]).map (·.outq) =
    some [0x00#8, 0x01#8, 0x02#8, 0x03#8, 0x04#8, 0x05#8, 0x06#8] := by decide

/-- V35: rows into the framer; V68: too many of them. -/
theorem test_flt_rows_framed : (after (filtered (stream 8#32) false 1#32) [0x51000002#32]
      [0x01#8, 0x02#8, 0x03#8, 0x04#8, 0x05#8, 0x06#8]).map (fun t => (t.outq, t.register 2#3)) =
      some ([0x01#8, 0x08#8, 0x00#8, 0xF7#8, 0xFF#8, 0x00#8, 0x01#8, 0x02#8, 0x03#8, 0x00#8, 0x04#8, 0x05#8, 0x06#8],
        0x00460016#32) ∧
    (after (filtered (stream 4#32) false 1#32) [0x51000002#32] (List.replicate 6 0#8)).map (·.status) =
      some 0x652#32 := by decide +kernel

/-- R127: a command short of input waits; a step then changes nothing; with its bytes there it runs. -/
theorem test_wait : after State.reset [0x02000003#32] [0x78#8] = some waiting ∧
    nextState (step waiting) = some waiting ∧ waiting.busy = true ∧
    (nextState (step { waiting with inq := [0x78#8, 0x79#8, 0x7A#8] })).map (fun t => (t.outq, t.current)) =
      some ([0x78#8, 0x79#8, 0x7A#8], none) := by decide

/-- R100, R101: what the assembler refuses, and the pieces of a long count. -/
theorem test_assemble : assemble (.raw 16777216) = none ∧ assemble (.zlbBegin 4294967296) = none ∧
    assemble (.chkBegin 0 ['I', 'E', 'N']) = none ∧
    assemble (.chkBegin 0 ['I', 'E', 'N', 'D']) = some (.chkBegin 0#32 0x49454E44#32) ∧
    assemble (.fltCfg 16777216 1) = none ∧ assemble (.fltCfg 5 1) = some (.fltCfg 5 1#32) ∧
    pieces 16777217 = [16777215, 2] ∧ pieces 0 = [] := by decide

/-- R266 and 93_implementation_defined.md: what needs a length over 32 bits is refused, at its edge. -/
theorem test_expand : Pseudo.expand (.zlib 4294967296) = none ∧ Pseudo.expand (.chunk ['I', 'E', 'N'] 0) = none ∧
    Pseudo.expand (.chunk ['I', 'E', 'N', 'D'] 0) = some [.chkBegin 0#32 0x49454E44#32, .chkEnd] ∧
    pngCommands 1431546542 1 3 = none ∧ (pngCommands 1431546541 1 3).isSome ∧ pngCommands 4294967296 0 3 = none ∧
    ihdrPayload 4294967296 1 = none := by decide

/-- RAW 1 on one byte (R126), its word and byte in the host's hands. -/
def rawRun : System := System.start [0x02000001#32] [7#8]

/-- R324: no result while an output byte is left to take; then the output, the registers after reset (R311), and `inq`. -/
theorem test_run : (rawRun.run [.pushCommand, .pushInput, .step]).result = none ∧
    (rawRun.run [.pushCommand, .pushInput, .step, .takeOutput]).result =
      some { output := [7#8], registers := [0#32, 0#32, 1#32, 0#32, 0#32, 0#32, 0#32, 0#32], inq := [] } := by decide

/-! ## Witnesses: the hypotheses of the statements, met -/

theorem witness_EncodedCommandDecodesBack : (Instr.raw 0).wf = true ∧ (Instr.fltRows 16777215).wf = true ∧
    (Instr.fltCfg 16777215 0xFFFFFFFF#32).wf = true ∧ (Instr.chkBegin 0#32 0xFFFFFFFF#32).wf = true := by decide

theorem witness_DecodedWordsAreTheEncoding : decode [0x31FFFFFF#32, 0#32] = .command (.zlbData 16777215) [0#32] ∧
    decode [0x40000000#32, 0#32, 0xFFFFFFFF#32] = .command (.chkBegin 0#32 0xFFFFFFFF#32) [] := by decide

/-- One word of three held, two of three, and all three; and a whole command in the error state. -/
theorem witness_OpcodeSetsCommandLength :
    (front State.reset [0x40000000#32] []).commandWords = 0x40000000#32 :: [] ∧ 0 + 1 < commandLength 0x40000000#32 ∧
    ({ State.reset with asmWords := [0x40000000#32], cmdq := [0#32] } : State).commandWords = [0x40000000#32, 0#32] ∧
    1 + 1 < commandLength 0x40000000#32 ∧ commandLength 0x40000000#32 ≤ 2 + 1 ∧
    (front failed [0x50000000#32, 0#32] []).current = none ∧ commandLength 0x50000000#32 ≤ 1 + 1 := by decide

theorem witness_ReservedOpcodeRaisesBadOpcode :
    (front State.reset [0x52000000#32] []).err = false ∧ (front State.reset [0x52000000#32] []).current = none ∧
    (front State.reset [0x52000000#32] []).commandWords = 0x52000000#32 :: [] ∧
    lookupOpcode (opcOf 0x52000000#32) = none ∧ lookupOpcode (opcOf 0xFF123456#32) = none ∧
    lookupOpcode (opcOf 0x03000000#32) = none := by decide

/-- One command of each of the three kinds; `RsvdChecked` met by word, length and state. -/
theorem witness_NonzeroReservedImmRaisesBadRsvd : Opcode.nop.format = .f0 ∧ Opcode.chkBegin.format = .ft ∧
    (front State.reset [0x40FFFFFF#32, 0#32, 0#32] []).commandWords = 0x40FFFFFF#32 :: [0#32, 0#32] ∧
    opcOf 0x40FFFFFF#32 = Opcode.chkBegin.code ∧ immOf 0x40FFFFFF#32 ≠ 0#24 ∧ commandLength 0x40FFFFFF#32 ≤ 2 + 1 ∧
    opcOf 0x30000001#32 = Opcode.zlbBegin.code ∧ immOf 0x30000001#32 ≠ 0#24 ∧ commandLength 0x30000001#32 ≤ 1 + 1 ∧
    opcOf 0x00800000#32 = Opcode.nop.code ∧ immOf 0x00800000#32 ≠ 0#24 ∧ commandLength 0x00800000#32 ≤ 0 + 1 := by
  decide

theorem witness_StepRunsTheDecodedCommand :
    (front State.reset [0x30000000#32, 5#32, 6#32] []).current = none ∧
    decode (front State.reset [0x30000000#32, 5#32, 6#32] []).commandWords = .command (.zlbBegin 5#32) [6#32] ∧
    waiting.current = some (.raw 3) := by decide

/-- One byte short; FLT_ROWS one byte short; and a count of 0 needs nothing. -/
theorem witness_CommandWaitsForItsInput :
    waiting.err = false ∧ Passes (.raw 3) waiting ∧ waiting.inq.length < needBytes (.raw 3) waiting ∧
    waiting.current = some (.raw 3) ∧
    Passes (.fltRows 1) (front (filtered State.reset true 2#32) [] (List.replicate 7 0#8)) ∧
    (List.replicate 7 (0#8 : Byte)).length < needBytes (.fltRows 1) (filtered State.reset true 2#32) ∧
    needBytes (.raw 0) State.reset = 0 ∧ needBytes (.fltRows 5) State.reset = 0 :=
  ⟨by decide, (check_none _ _).1 (by decide), by decide, by decide, (check_none _ _).1 (by decide), by decide, by decide,
    by decide⟩

theorem witness_NeedOfEachCommand : (Instr.chkEnd).opcode.format ≠ .fn ∧ (Instr.fltCfg 3 1#32).opcode.format ≠ .fn := by
  decide

theorem witness_IdleBlockHoldsItsState : State.reset.busy = false ∧ (both 20#32 1#32).busy = false ∧
    failed.busy = false := by decide

/-- BAD_STATE, then BAD_ARG with the state check passed, then BAD_LEN by one byte; and the two words a decoder rejects. -/
theorem witness_FailingCheckRecordsOnlyTheError :
    State.reset.err = false ∧ badStateIf (.zlbData 5) State.reset ∧
    ¬badStateIf (.fltCfg 5 1#32) State.reset ∧ badArgIf (.fltCfg 5 1#32) ∧
    ¬badStateIf (.chkData 4) (chunk 3#32) ∧ ¬badArgIf (.chkData 4) ∧ badLenIf (.chkData 4) (chunk 3#32) ∧
    decode (front State.reset [0x01000001#32] []).commandWords = .illegal .reservedImm 0x01000001#32 [] ∧
    decode (front State.reset [0x03000000#32] []).commandWords = .illegal .reservedOpcode 0x03000000#32 [] := by
  refine ⟨by decide, ?_, ?_, ?_, ?_, ?_, ?_, by decide, by decide⟩ <;>
    simp [badStateIf, badArgIf, badLenIf, chunk, State.reset]

theorem witness_CommandsArePrecise : State.reset.err = false ∧ ¬Passes .zlbEnd State.reset ∧ Passes .zlbEnd (stream 0#32) :=
  ⟨by decide, fun h => absurd ((check_none _ _).2 h) (by decide), (check_none _ _).1 (by decide)⟩

theorem witness_ErrorStateDiscardsAllButSrst : failed.err = true ∧ Instr.crcInit ≠ .srst ∧
    (front failed [0x30000000#32, 0x01000000#32] []).commandWords = 0x30000000#32 :: [0x01000000#32] ∧
    commandLength 0x30000000#32 ≤ 1 + 1 ∧ (0x30000000#32 : Word) ≠ 0x01000000#32 ∧
    (front failed [0x01000000#32] []).commandWords = 0x01000000#32 :: [] ∧ (front failed [0x01000000#32] []).current = none := by
  decide

/-- A step that keeps the error and one that clears it. -/
theorem witness_FirstErrorIsKept : (front failed [0xFF123456#32] []).err = true ∧
    nextState (step (front failed [0xFF123456#32] [])) = some failed ∧
    nextState (step (front failed [0x01000000#32] [])) = some State.reset := by decide

theorem witness_RegisterMapReads : (both 20#32 1#32).busy = false := by decide

/-- Busy for each of the three reasons, and not busy. -/
theorem witness_BusyReadsAreUnspecified : (front State.reset [0#32] []).busy = true ∧
    ({ State.reset with asmWords := [0x30000000#32] } : State).busy = true ∧ waiting.busy = true ∧
    State.reset.busy = false := by decide

theorem witness_SrstResetsEveryField : (front failed [0x01000001#32, 5#32] []).err = true ∧
    (front failed [0x01000001#32, 5#32] []).current = none ∧
    (front failed [0x01000001#32, 5#32] []).commandWords = 0x01000001#32 :: [5#32] ∧ opcOf 0x01000001#32 = 0x01#8 ∧
    (0x01000001#32 : Word) ≠ 0x01000000#32 := by decide

/-- A word that each `RsvdChecked` clause of the per-command statements is about: OPC, non-zero IMM, and its length there. -/
theorem witness_RsvdChecked :
    ∀ o ∈ [Opcode.nop, .srst, .crcInit, .crcPut, .adlInit, .adlPut, .zlbBegin, .zlbEnd, .chkBegin, .chkEnd],
      opcOf (makeWord0 o.code 1#24) = o.code ∧ immOf (makeWord0 o.code 1#24) ≠ 0#24 ∧
      commandLength (makeWord0 o.code 1#24) ≤ 2 + 1 ∧
      (front State.reset [makeWord0 o.code 1#24, 0#32, 0#32] []).commandWords =
        makeWord0 o.code 1#24 :: [0#32, 0#32] := by decide

/-- The commands that need both owners free (RAW, CRC_PUT, ADL_PUT, CHK_BEGIN): a chunk, a stream, neither; the count at 0, at
the input there is, and at the most that can be encoded. -/
theorem witness_RawPassesBytesThrough : (chunk 0#32).err = false ∧ (chunk 0#32).chkOpen = true ∧
    (stream 1#32).zOpen = true ∧ State.reset.chkOpen = false ∧ State.reset.zOpen = false ∧
    0 ≤ State.reset.inq.length ∧ 1 ≤ (front State.reset [] [7#8]).inq.length ∧ 16777215 < 16777216 := by decide

theorem witness_CrcPutEmitsTheCrc : (stream 1#32).err = false ∧ (chunk 0#32).chkOpen = true ∧
    (stream 1#32).zOpen = true ∧ State.reset.chkOpen = false ∧ State.reset.zOpen = false := by decide

theorem witness_AdlPutEmitsTheSums : State.reset.err = false ∧ (chunk 0#32).chkOpen = true ∧
    (stream 1#32).zOpen = true ∧ State.reset.chkOpen = false ∧ State.reset.zOpen = false := by decide

/-- CRC_INIT and CRC_FEED: a chunk open, and only a stream open (V74). -/
theorem witness_CrcInitStartsANewCrc : (chunk 0#32).err = false ∧ (chunk 0#32).chkOpen = true ∧
    (stream 0#32).chkOpen = false ∧ (stream 0#32).err = false := by decide

theorem witness_CrcFeedFoldsItsBytes : (chunk 0#32).chkOpen = true ∧ (front (stream 0#32) [] [0x61#8]).chkOpen = false ∧
    (front (stream 0#32) [] [0x61#8]).err = false ∧ 1 ≤ (front (stream 0#32) [] [0x61#8]).inq.length := by decide

/-- ADL_INIT and ADL_FEED: a stream open, and only a chunk open (V77); the sums at their largest. -/
theorem witness_AdlInitStartsNewSums : (stream 1#32).err = false ∧ (stream 1#32).zOpen = true ∧
    (chunk 0#32).zOpen = false ∧ (chunk 0#32).err = false := by decide

theorem witness_AdlFeedFoldsItsBytes : (65520#16 : BitVec 16).toNat ≤ 65520 ∧ (0#16 : BitVec 16).toNat ≤ 65520 ∧
    (stream 1#32).zOpen = true ∧ (front (chunk 0#32) [] [0x61#8]).zOpen = false ∧
    (front (chunk 0#32) [] [0x61#8]).err = false ∧ 1 ≤ (front (chunk 0#32) [] [0x61#8]).inq.length := by decide

/-- A stream open; one byte too few in the chunk, and exactly enough; no chunk. -/
theorem witness_ZlbBeginOpensAStream : (stream 1#32).zOpen = true ∧ (chunk 10#32).err = false ∧
    (chunk 10#32).zOpen = false ∧ (chunk 10#32).chkOpen = true ∧
    (chunk 10#32).chkRem.toNat < zsize (0#32 : Word).toNat ∧ zsize (0#32 : Word).toNat ≤ (chunk 11#32).chkRem.toNat ∧
    State.reset.zOpen = false ∧ State.reset.chkOpen = false := by decide

/-- No stream; one byte too many; exactly what is expected, in and outside a chunk; and none. -/
theorem witness_ZlbDataFramesItsBytes : State.reset.err = false ∧ State.reset.zOpen = false ∧
    (stream 1#32).zOpen = true ∧ (stream 1#32).zRem.toNat < 2 ∧ 1 ≤ (stream 1#32).zRem.toNat ∧
    1 ≤ (front (stream 1#32) [] [0x61#8]).inq.length ∧ 0 ≤ (stream 1#32).inq.length ∧
    (both 20#32 1#32).zOpen = true ∧ (both 20#32 1#32).chkOpen = true := by decide

theorem witness_ZlbEndClosesTheStream : (stream 1#32).err = false ∧ State.reset.zOpen = false ∧
    (stream 1#32).zOpen = true ∧ (stream 1#32).zRem ≠ 0#32 ∧ (stream 0#32).zRem = 0#32 ∧ (stream 0#32).zOpen = true ∧
    (stream 0#32).chkOpen = false ∧ (both 9#32 0#32).zOpen = true ∧ (both 9#32 0#32).zRem = 0#32 ∧
    (both 9#32 0#32).chkOpen = true ∧
    ([0x01#8, 0x00#8, 0x00#8, 0xFF#8, 0xFF#8, 0x00#8, 0x00#8, 0x00#8, 0x01#8] : List Byte) =
      (if (both 9#32 0#32).zHdr = true then [] else [0x01#8, 0x00#8, 0x00#8, 0xFF#8, 0xFF#8]) ++
      [(both 9#32 0#32).adlB.extractLsb' 8 8, (both 9#32 0#32).adlB.extractLsb' 0 8,
       (both 9#32 0#32).adlA.extractLsb' 8 8, (both 9#32 0#32).adlA.extractLsb' 0 8] := by decide

/-- "A@zZ" has a byte just below the letters; "AZaz" is at their edges. -/
theorem witness_ChkBeginOpensAChunk : State.reset.err = false ∧ (chunk 0#32).chkOpen = true ∧ (stream 0#32).zOpen = true ∧
    State.reset.chkOpen = false ∧ State.reset.zOpen = false ∧ badArgIf (.chkBegin 0#32 0x41407A5A#32) ∧
    badArgIf (.chkBegin 0#32 0x415B7A5A#32) ∧ ¬badArgIf (.chkBegin 0#32 0x415A617A#32) :=
  ⟨by decide, by decide, by decide, by decide, by decide, (tagOk_iff _ _).1 (by decide), (tagOk_iff _ _).1 (by decide),
    fun h => absurd ((tagOk_iff _ _).2 h) (by decide)⟩

theorem witness_ChkDataIsPayload : State.reset.err = false ∧ State.reset.chkOpen = false ∧ (both 9#32 0#32).zOpen = true ∧
    (chunk 3#32).chkOpen = true ∧ (chunk 3#32).zOpen = false ∧ (chunk 3#32).chkRem.toNat < 4 ∧
    3 ≤ (chunk 3#32).chkRem.toNat ∧ 3 ≤ (front (chunk 3#32) [] [1#8, 2#8, 3#8]).inq.length := by decide

theorem witness_ChkEndEmitsTheChunkCrc : State.reset.err = false ∧ State.reset.chkOpen = false ∧
    (both 9#32 0#32).zOpen = true ∧ (chunk 1#32).chkOpen = true ∧ (chunk 1#32).zOpen = false ∧
    (chunk 1#32).chkRem ≠ 0#32 ∧ (chunk 0#32).chkRem = 0#32 ∧ (chunk 0#32).chkOpen = true ∧ (chunk 0#32).zOpen = false := by
  decide

theorem witness_FltCfgSetsTheGeometry : State.reset.err = false ∧ (2 ≠ 3 ∧ 2 ≠ 4) ∧ (5 ≠ 3 ∧ 5 ≠ 4) ∧
    (1#32 : Word) ≠ 0#32 ∧ (0xFFFFFFFF#32 : Word) ≠ 0#32 := by decide

/-- Not configured; in a stream and in a chunk one byte too long and exactly as long as expected; one row of one RGB pixel. -/
theorem witness_FltRowsRoutesFilteredRows :
    (3 = 1 * (1#32 : Word).toNat * (if (filtered State.reset false 1#32).fltCh4 = true then 4 else 3)) ∧
    4 = 1 * (1 + 3 * (1#32 : Word).toNat) ∧
    ([0#8, 7#8, 8#8, 9#8] : List Byte) = filterRows false 1 1 [7#8, 8#8, 9#8] ∧
    State.reset.err = false ∧ State.reset.fltW = 0#32 ∧ (filtered State.reset false 1#32).fltW ≠ 0#32 ∧
    (filtered (stream 3#32) false 1#32).zOpen = true ∧ (filtered (stream 3#32) false 1#32).zRem.toNat < 4 ∧
    4 ≤ (filtered (stream 4#32) false 1#32).zRem.toNat ∧ (filtered (chunk 3#32) false 1#32).chkOpen = true ∧
    (filtered (chunk 3#32) false 1#32).zOpen = false ∧ (filtered (chunk 3#32) false 1#32).chkRem.toNat < 4 ∧
    4 ≤ (filtered (chunk 4#32) false 1#32).chkRem.toNat ∧
    3 ≤ (front (filtered (chunk 4#32) false 1#32) [] [7#8, 8#8, 9#8]).inq.length ∧
    (filtered State.reset false 1#32).chkOpen = false := by decide

/-- Inside a stream in a chunk whose 10 bytes left are exactly what the stream still needs, ZLB_DATA 1 steps on. -/
theorem witness_EveryStepKeepsTheStateInvariants : (front (both 10#32 1#32) [0x31000001#32] [7#8]).Inv ∧
    (nextState (step (front (both 10#32 1#32) [0x31000001#32] [7#8]))).map (·.chkRem) = some 4#32 :=
  ⟨⟨by decide, by decide, by decide, by decide, by decide, by decide, by decide⟩, by decide +kernel⟩

/-- A failing command from an error-free state. -/
theorem witness_EveryStepKeepsTheErrorRecord : (front State.reset [0x32000000#32] []).ErrorRecord ∧
    (nextState (step (front State.reset [0x32000000#32] []))).map (·.errCode) = some .badState :=
  ⟨⟨by decide, by decide⟩, by decide⟩

/-- A command that waits. -/
theorem witness_EveryStepKeepsTheFetchState : waiting.FetchInv ∧ nextState (step waiting) = some waiting :=
  ⟨⟨by decide, fun i h => by
      have hi : i = .raw 3 := by
        have : some (Instr.raw 3) = some i := h
        cases this
        rfl
      subst hi
      exact ⟨by decide, by decide, (check_none _ _).1 (by decide)⟩⟩, by decide⟩

theorem witness_StreamsOnlyAdvance : (after State.reset [0x02000001#32] [7#8, 8#8]).map (fun t => (t.inq, t.outq)) =
    some ([8#8], [7#8]) := by decide

theorem witness_CommandDependsOnlyOnItsOwnInput : (stream 1#32).err = false ∧ Passes (.zlbData 1) (stream 1#32) ∧
    needBytes (.zlbData 1) (stream 1#32) ≤ (front (stream 1#32) [] [7#8]).inq.length ∧
    (nextState (exec (.zlbData 1) (front (stream 1#32) [] [7#8]))).map (·.zRem) = some 0#32 :=
  ⟨by decide, (check_none _ _).1 (by decide), by decide, by decide +kernel⟩

/-- Each field the statement is about does change: CRC, sums, the chunk's and the stream's counts, the block header flag, the
filter, the two owners, and the error record. -/
theorem witness_OnlyTheNamedCommandsWrite :
    (nextState (exec (.chkData 1) (front (chunk 1#32) [] [7#8]))).map (fun t => t.crc != (chunk 1#32).crc) = some true ∧
    (nextState (exec (.zlbData 1) (front (stream 1#32) [] [7#8]))).map (fun t => t.adlA != 1#16) = some true ∧
    (nextState (exec (.chkData 1) (front (chunk 1#32) [] [7#8]))).map (·.chkRem) = some 0#32 ∧
    (nextState (exec (.zlbData 1) (front (stream 2#32) [] [7#8]))).map (fun t => (t.zRem, t.zBlk, t.zHdr)) =
      some (1#32, 1#16, true) ∧
    (nextState (exec (.fltCfg 4 1#32) State.reset)).map (·.fltCh4) = some true ∧
    (nextState (exec .zlbEnd State.reset)).map (fun t => (t.err, t.errCode, t.errCmd)) =
      some (true, .badState, 0x32000000#32) ∧
    (nextState (exec .chkEnd (chunk 0#32))).map (·.chkOpen) = some false ∧
    (nextState (exec .zlbEnd (stream 0#32))).map (·.zOpen) = some false := by decide +kernel

/-- One split for each data command. -/
theorem witness_SplitDataCommandsGiveTheSameResult :
    Passes (.raw (1 + 1)) State.reset ∧ Passes (.crcFeed (0 + 1)) State.reset ∧ Passes (.adlFeed (1 + 0)) State.reset ∧
    Passes (.zlbData (1 + 1)) (stream 2#32) ∧ Passes (.chkData (1 + 1)) (chunk 2#32) ∧
    Passes (.fltRows (1 + 1)) (filtered State.reset false 1#32) ∧ State.reset.err = false ∧
    needBytes (.fltRows (1 + 1)) (filtered State.reset false 1#32) ≤ (List.replicate 6 (0#8 : Byte)).length ∧
    needBytes (.raw (1 + 1)) State.reset ≤ (List.replicate 2 (0#8 : Byte)).length :=
  ⟨(check_none _ _).1 (by decide), (check_none _ _).1 (by decide), (check_none _ _).1 (by decide),
    (check_none _ _).1 (by decide), (check_none _ _).1 (by decide), (check_none _ _).1 (by decide), by decide, by decide,
    by decide⟩

theorem witness_CrcUnitComputesCrc32 : (front State.reset [] [7#8, 8#8]).err = false ∧
    (front State.reset [] [7#8, 8#8]).chkOpen = false ∧ (front State.reset [] [7#8, 8#8]).inq = [7#8] ++ [8#8] ∧
    State.reset.inq = [] ++ [] := by decide

theorem witness_AdlerUnitComputesAdler32 : (front State.reset [] [7#8, 8#8]).err = false ∧
    (front State.reset [] [7#8, 8#8]).zOpen = false ∧ (front State.reset [] [7#8, 8#8]).inq = [7#8] ++ [8#8] := by decide

theorem witness_EmptyStreamBytes : State.reset.err = false ∧ State.reset.chkOpen = false ∧ State.reset.zOpen = false := by
  decide

theorem witness_FramerEmitsZlibWrap : ([7#8] : List Byte).length < 4294967296 ∧
    (front State.reset [] [7#8, 8#8]).err = false ∧ (front State.reset [] [7#8, 8#8]).chkOpen = false ∧
    (front State.reset [] [7#8, 8#8]).zOpen = false ∧ (front State.reset [] [7#8, 8#8]).inq = [7#8] ++ [8#8] := by decide

/-- Two rows of one RGBA pixel, in two commands, and an input byte behind them. -/
theorem witness_FilterEmitsFilterScanlines : (1#32 : Word) ≠ 0#32 ∧ State.reset.err = false ∧
    State.reset.chkOpen = false ∧ State.reset.zOpen = false ∧
    (List.replicate 8 (5#8 : Byte)).length = [1, 1].sum * (1#32 : Word).toNat * (if true = true then 4 else 3) ∧
    (front State.reset [] (List.replicate 8 5#8 ++ [9#8])).inq = List.replicate 8 5#8 ++ [9#8] := by decide

/-- A chunk of two bytes in two commands; and a chunk around an empty stream (V44), run to its end. -/
theorem witness_SerializerEmitsWriteChunk : ¬badArgIf (.chkBegin (BitVec.ofNat 32 2) tagIDAT) ∧ [1, 1].sum = 2 ∧
    State.reset.err = false ∧ State.reset.chkOpen = false ∧ State.reset.zOpen = false ∧
    (front State.reset [] [7#8, 8#8]).inq = [7#8, 8#8] ++ [] ∧
    (∀ i ∈ [Instr.zlbBegin 0#32, .zlbEnd], i.opcode ∈ [Opcode.chkData, .zlbBegin, .zlbData, .zlbEnd, .fltCfg, .fltRows,
      .adlInit, .adlFeed, .nop]) ∧ State.reset.Inv ∧ State.reset.current = none ∧
    (nextState (execAll [.chkBegin 11#32 0x7A7A5A5A#32, .zlbBegin 0#32, .zlbEnd, .chkEnd] State.reset)).map
      (fun t => (t.err, t.current)) = some (false, none) :=
  ⟨fun h => absurd ((tagOk_iff _ _).2 h) (by decide), by decide, by decide, by decide, by decide, by decide, by decide,
    ⟨by decide, by decide, by decide, by decide, by decide, by decide, by decide⟩, by decide, by decide +kernel⟩

/-- A 1 x 1 RGB image, and the widest row whose IDAT length fits: it is 2^32 - 1 bytes. -/
theorem witness_PngSequenceEmitsEncodePng : PngPreconditions 1 1 3 [5#8, 18#8, 31#8] ∧
    PngPreconditions 1431546541 1 3 (List.replicate (1 * 1431546541 * 3) 0#8) ∧
    State.reset.err = false ∧ State.reset.chkOpen = false ∧ State.reset.zOpen = false ∧
    ∀ input, pngInput 1 1 [5#8, 18#8, 31#8] = some input → (front State.reset [] (input ++ [9#8])).inq = input ++ [9#8] :=
  ⟨⟨by decide, by decide, by decide, by decide⟩, ⟨by decide, by decide, List.length_replicate, by decide⟩, by decide,
    by decide, by decide, fun _ _ => rfl⟩

/-- Both sides of each refusal. -/
theorem witness_PseudoInstructionsAreRefusedOnlyForWhatDoesNotFit : 16777215 ∈ pieces 16777217 ∧ 2 ∈ pieces 16777217 ∧
    ['I', 'E', 'N'].length ≠ 4 ∧ (Pseudo.expand (.chunk ['I', 'E', 'N', 'D'] 4294967295)).isNone = false ∧
    Pseudo.expand (.chunk ['I', 'E', 'N', 'D'] 4294967296) = none := by decide +kernel

/-- Two orders of the same moves: the step first waits in the second, for its word and then for its byte. -/
theorem witness_EndedRunsAgree :
    ((rawRun.run [.pushInput, .pushCommand, .step, .takeOutput]).result.isSome ∧
     (rawRun.run [.step, .pushCommand, .step, .pushInput, .step, .takeOutput]).result.isSome) := by decide

theorem witness_RunResultIsOutputRegistersAndInput : (rawRun.run [.pushInput, .pushCommand, .step, .takeOutput]).result =
    some { output := [7#8], registers := (List.range 8).map fun a => if a = 2 then 1#32 else 0#32, inq := [] } := by
  decide

/-- RAW 3 one byte short with none left at the host; the first of CHK_BEGIN's three words, and its second, alone. -/
theorem witness_RunsThatHang :
    waiting.FetchInv ∧ waiting.current = some (.raw 3) ∧ waiting.inq.length + [1#8].length < needBytes (.raw 3) waiting ∧
    State.WaitingForWords (front State.reset [0x40000000#32] []) ∧
    State.WaitingForWords { State.reset with asmWords := [0x40000000#32, 0#32] } ∧
    waiting.busy = true ∧ nextState (step waiting) = some waiting :=
  ⟨witness_EveryStepKeepsTheFetchState.1, by decide, by decide, ⟨by decide, by decide, by decide⟩,
    ⟨by decide, by decide, by decide⟩, by decide, by decide⟩

end Sys2Proof.Tests
end

section
/-! ## Checks and effects of the commands, each said at once

`Passes` per command as the conditions it stands for (60_exceptions.md R282), and `performOf` without its folds. -/

namespace Sys2Proof.Machine

/-! ### What passing the checks means -/

theorem passes_zlbBegin {N : Word} {s : State} : Passes (.zlbBegin N) s ↔
    s.zOpen = false ∧ (s.chkOpen = true → zsize N.toNat ≤ s.chkRem.toNat) := by
  simp [Passes, badStateIf, badArgIf, badLenIf]

theorem passes_zlbData {n : Nat} {s : State} : Passes (.zlbData n) s ↔ s.zOpen = true ∧ n ≤ s.zRem.toNat := by
  simp [Passes, badStateIf, badArgIf, badLenIf]

theorem passes_zlbEnd {s : State} : Passes .zlbEnd s ↔ s.zOpen = true ∧ s.zRem = 0#32 := by
  simp [Passes, badStateIf, badArgIf, badLenIf]

theorem passes_chkBegin {L T : Word} {s : State} : Passes (.chkBegin L T) s ↔
    s.chkOpen = false ∧ s.zOpen = false ∧ ¬badArgIf (.chkBegin L T) := by
  simp [Passes, badStateIf, badLenIf, and_assoc]

theorem passes_chkData {n : Nat} {s : State} : Passes (.chkData n) s ↔
    s.chkOpen = true ∧ s.zOpen = false ∧ n ≤ s.chkRem.toNat := by
  simp [Passes, badStateIf, badArgIf, badLenIf, and_assoc]

theorem passes_chkEnd {s : State} : Passes .chkEnd s ↔ s.chkOpen = true ∧ s.zOpen = false ∧ s.chkRem = 0#32 := by
  simp [Passes, badStateIf, badArgIf, badLenIf, and_assoc]

theorem passes_fltRows {r : Nat} {s : State} : Passes (.fltRows r) s ↔ s.fltW ≠ 0#32 ∧
    (s.zOpen = true → filteredLength r s.fltW.toNat ≤ s.zRem.toNat) ∧
    (s.zOpen = false → s.chkOpen = true → filteredLength r s.fltW.toNat ≤ s.chkRem.toNat) := by
  simp [Passes, badStateIf, badArgIf, badLenIf, filteredLength]

/-! ### The filter's length (44_scanline_filter.md R211, R214) -/

theorem dropAlpha_length_le (W : Nat) (row : List Byte) (h : row.length ≤ 4 * W) : (dropAlpha row).length ≤ 3 * W := by
  induction row using dropAlpha.induct generalizing W with
  | case1 r g b a rest ih =>
    simp only [List.length_cons] at h
    have := ih (W - 1) (by omega)
    simp only [dropAlpha, List.length_cons]
    omega
  | _ => simp [dropAlpha]

theorem rowRgb_length_le {ch4 : Bool} {W : Nat} {row : List Byte} (h : row.length ≤ W * channels ch4) :
    (rowRgb ch4 row).length ≤ 3 * W := by
  cases ch4 with
  | true => exact dropAlpha_length_le W row (by simpa [channels, Nat.mul_comm] using h)
  | false => simpa [rowRgb, channels, Nat.mul_comm] using h

theorem filterRows_length_le (ch4 : Bool) (W r : Nat) (bytes : List Byte) :
    (filterRows ch4 W r bytes).length ≤ filteredLength r W := by
  induction r generalizing bytes with
  | zero => simp [filterRows]
  | succ r ih =>
    have hrow := rowRgb_length_le (List.length_take_le (W * channels ch4) bytes)
    have hrest := ih (bytes.drop (W * channels ch4))
    have hm : filteredLength (r + 1) W = filteredLength r W + (1 + 3 * W) := Nat.succ_mul ..
    simp only [filterRows, List.length_append, List.length_cons]
    omega

/-! ### The effects -/

/-- The state in which ZLB_BEGIN emits the zlib header (43_zlib_framer.md R187). -/
def State.openStream (N : Word) (s : State) : State :=
  { s with adlA := 1#16, adlB := 0#16, zOpen := true, zRem := N, zBlk := 0#16, zHdr := false }

/-- The stream's own fields after ZLB_END (R189): no stream is open, and a block header has been emitted. -/
def State.closeStream (s : State) : State := { s with zOpen := false, zHdr := true }

/-- What ZLB_END emits (R189): the empty final block if no block came before it, and the trailer. -/
def State.streamTail (s : State) : List Byte :=
  (if s.zHdr then [] else emptyBlock) ++ be32 (adlerOut s.adlA s.adlB)

/-- The state after the bytes `p` have gone through `Route` (20_memory.md R68), said at once. -/
def State.routed (s : State) (p : List Byte) : State := if s.zOpen then s.framed p else s.emitted p

theorem State.routed_stream {s : State} (p : List Byte) (h : s.zOpen = true) : s.routed p = s.framed p := if_pos h

theorem State.routed_no_stream {s : State} (p : List Byte) (h : s.zOpen = false) : s.routed p = s.emitted p :=
  if_neg (by simp [h])

theorem State.routeAll_eq (s : State) (p : List Byte) (h : s.zOpen = true → p.length ≤ s.zRem.toNat) :
    s.routeAll p = s.routed p := by
  cases hz : s.zOpen with
  | true => rw [State.routed_stream p hz, State.routeAll_stream s p hz, State.feedAll_eq s p (h hz)]
  | false => rw [State.routed_no_stream p hz, State.routeAll_no_stream s p hz]

/-- The effect of each command as one update of the state: the loops of the streams, of the chunk stage, of the framer and of
the filter are said at once. -/
def effectOf (i : Instr) (s : State) : State :=
  match i with
  | .nop => s
  | .srst => s.softReset
  | .raw n => { s.inDrop n with outq := s.outq ++ s.inBytes n }
  | .crcInit => { s with crc := crcOnes }
  | .crcFeed n => { s.inDrop n with crc := (s.inBytes n).foldl crcByte s.crc }
  | .crcPut => { s with outq := s.outq ++ be32 (crcOut s.crc) }
  | .adlInit => { s with adlA := 1#16, adlB := 0#16 }
  | .adlFeed n => { s.inDrop n with
      adlA := ((s.inBytes n).foldl adlByte (s.adlA, s.adlB)).1
      adlB := ((s.inBytes n).foldl adlByte (s.adlA, s.adlB)).2 }
  | .adlPut => { s with outq := s.outq ++ be32 (adlerOut s.adlA s.adlB) }
  | .zlbBegin N => (s.openStream N).emitted zlibHeader
  | .zlbData n => (s.inDrop n).framed (s.inBytes n)
  | .zlbEnd => s.closeStream.emitted s.streamTail
  | .chkBegin L T => { s with
      outq := s.outq ++ be32 L ++ be32 T, crc := (be32 T).foldl crcByte crcOnes, chkRem := L, chkOpen := true }
  | .chkData n => (s.inDrop n).emitted (s.inBytes n)
  | .chkEnd => { s with outq := s.outq ++ be32 (crcOut s.crc), chkOpen := false }
  | .fltCfg ch W => { s with fltCh4 := decide (ch = 4), fltW := W }
  | .fltRows r =>
    let need := needBytes (.fltRows r) s
    (s.inDrop need).routed (filterRows s.fltCh4 s.fltW.toNat r (s.inBytes need))

theorem performZlbEnd_eq (s : State) : performZlbEnd s = s.closeStream.emitted s.streamTail := by
  rw [performZlbEnd, emitEmptyBlock, State.streamTail]
  cases hh : s.zHdr with
  | true => simp [State.emitAll_eq, State.closeStream, State.emitted, hh]
  | false =>
    simp only [State.emitAll_eq, Bool.false_eq_true, if_false]
    rw [← State.emitted_emitted]
    rfl

/-- The effect handed to `Execute` is the one update; the checks matter to the framer alone, whose counts must not wrap. -/
theorem performOf_eq_effectOf {i : Instr} {s : State} (hp : Passes i s) : performOf i s = effectOf i s := by
  cases i with
  | nop | srst | crcInit | crcFeed _ | adlInit | adlFeed _ | fltCfg _ _ => rfl
  | raw _ | crcPut | adlPut => exact State.outAll_eq _ _
  | zlbBegin _ | chkData _ => exact State.emitAll_eq _ _
  | zlbData n =>
    have hn := (passes_zlbData.mp hp).2
    exact State.feedAll_eq _ _ ((List.length_take_le n s.inq).trans hn)
  | zlbEnd => exact performZlbEnd_eq s
  | chkBegin L T => rw [performOf, performChkBegin, State.outAll_eq, State.outAll_eq, effectOf]
  | chkEnd => rw [performOf, performChkEnd, State.outAll_eq, effectOf]
  | fltRows r =>
    obtain ⟨-, hstream, -⟩ := passes_fltRows.mp hp
    exact State.routeAll_eq _ _ fun hz => (filterRows_length_le _ _ _ _).trans (hstream hz)

end Sys2Proof.Machine
end

section
/-! ## The invariants of the state (10_state.md R43) -/

namespace Sys2Proof.Machine

/-- `State.Inv` reads eight fields only. -/
theorem State.Inv.of_eq {s t : State} (h : s.Inv) (hA : t.adlA = s.adlA) (hB : t.adlB = s.adlB)
    (hco : t.chkOpen = s.chkOpen) (hcr : t.chkRem = s.chkRem) (hzo : t.zOpen = s.zOpen) (hzr : t.zRem = s.zRem)
    (hzb : t.zBlk = s.zBlk) (hzh : t.zHdr = s.zHdr) : t.Inv := by
  constructor <;> simp only [State.blocksLeft, hA, hB, hco, hcr, hzo, hzr, hzb, hzh]
  exacts [h.adlA_le, h.adlB_le, h.zBlk_le, h.closed_stream, h.fits_chunk, h.closed_chunk, h.header_first]

theorem State.inv_reset : State.reset.Inv :=
  ⟨by decide, by decide, by decide, by decide, by decide, by decide, by decide⟩

/-- The Adler sums after a byte are reduced, whatever they were before (42_adler32.md R161). -/
theorem adlByte_le (sums : BitVec 16 × BitVec 16) (x : Byte) :
    (adlByte sums x).1.toNat ≤ 65520 ∧ (adlByte sums x).2.toNat ≤ 65520 := by
  simp only [adlByte, adlerMod, BitVec.toNat_ofNat]
  omega

theorem foldl_adlByte_le (xs : List Byte) (sums : BitVec 16 × BitVec 16) (ha : sums.1.toNat ≤ 65520)
    (hb : sums.2.toNat ≤ 65520) :
    (xs.foldl adlByte sums).1.toNat ≤ 65520 ∧ (xs.foldl adlByte sums).2.toNat ≤ 65520 := by
  induction xs generalizing sums with
  | nil => exact ⟨ha, hb⟩
  | cons x xs ih => exact ih _ (adlByte_le sums x).1 (adlByte_le sums x).2

/-- The sums may take any reduced values. -/
theorem State.Inv.with_sums {s : State} (h : s.Inv) {a b : BitVec 16} (ha : a.toNat ≤ 65520) (hb : b.toNat ≤ 65520) :
    ({ s with adlA := a, adlB := b } : State).Inv :=
  ⟨ha, hb, h.zBlk_le, h.closed_stream, h.fits_chunk, h.closed_chunk, h.header_first⟩

/-- With no stream open a chunk may be begun with any length, and closed with nothing left of it. -/
theorem State.Inv.with_chunk {s : State} (h : s.Inv) (hz : s.zOpen = false) {o : Bool} {rem : Word}
    (hr : o = false → rem = 0#32) : ({ s with chkOpen := o, chkRem := rem } : State).Inv :=
  ⟨h.adlA_le, h.adlB_le, h.zBlk_le, h.closed_stream, fun hz' => absurd (hz.symm.trans hz') (by decide), hr,
    h.header_first⟩

theorem State.Inv.inDrop {s : State} (h : s.Inv) (n : Nat) : (s.inDrop n).Inv :=
  h.of_eq rfl rfl rfl rfl rfl rfl rfl rfl

/-! ### Room in the chunk -/

/-- What the open stream still puts into its chunk (R43): the payload, the headers of the blocks to come, the trailer, and the
empty block of a stream without one. -/
def State.streamRoom (s : State) : Nat :=
  s.zRem.toNat + 5 * s.blocksLeft + 4 + (if s.zHdr = false ∧ s.zRem = 0#32 then 5 else 0)

/-- Bytes counted against an open chunk that has room for them (20_memory.md R66). -/
theorem State.emitted_chkRem_toNat {s : State} {e : List Byte} (hc : s.chkOpen = true)
    (hn : e.length ≤ s.chkRem.toNat) : (s.emitted e).chkRem.toNat = s.chkRem.toNat - e.length := by
  have := s.chkRem.isLt
  simp only [State.emitted_chkRem, hc, if_true, BitVec.toNat_sub, BitVec.toNat_ofNat]
  omega

/-- Payload may go out as long as an open stream keeps its room in an open chunk. -/
theorem State.Inv.emitted {s : State} (h : s.Inv) {e : List Byte}
    (hroom : s.zOpen = true → s.chkOpen = true → s.streamRoom + e.length ≤ s.chkRem.toNat) : (s.emitted e).Inv where
  adlA_le := h.adlA_le
  adlB_le := h.adlB_le
  zBlk_le := h.zBlk_le
  closed_stream := h.closed_stream
  fits_chunk hz hc := by
    have hroom := hroom hz hc
    change s.streamRoom ≤ (s.emitted e).chkRem.toNat
    rw [State.emitted_chkRem_toNat (s := s) hc (by omega)]
    omega
  closed_chunk hc := by
    have hc : s.chkOpen = false := hc
    simpa [hc] using h.closed_chunk hc
  header_first := h.header_first

/-- With no stream open nothing bounds what an open chunk still expects. -/
theorem State.Inv.emitted_no_stream {s : State} (h : s.Inv) (hz : s.zOpen = false) (e : List Byte) :
    (s.emitted e).Inv :=
  h.emitted fun hz' => absurd (hz.symm.trans hz') (by decide)

/-! ### The framer's byte (20_memory.md R67) -/

/-- The header that `FeedZ` emits just before the first byte of a block. -/
def State.blockHeader (s : State) : List Byte :=
  if s.zBlk = 0#16 then
    storedHeader (decide (s.zRem.toNat ≤ storedMax)) (BitVec.ofNat 16 (min s.zRem.toNat storedMax))
  else []

theorem State.blockHeader_length (s : State) : s.blockHeader.length = if s.zBlk = 0#16 then 5 else 0 := by
  unfold State.blockHeader
  split <;> rfl

theorem State.feedZ_chkRem (s : State) (x : Byte) :
    (s.feedZ x).chkRem = (s.emitted (s.blockHeader ++ [x])).chkRem := by
  rw [State.feedZ_eq, State.blockHeader]
  split <;> rfl

theorem State.feedZ_zRem_toNat {s : State} (x : Byte) (hr : 1 ≤ s.zRem.toNat) :
    (s.feedZ x).zRem.toNat = s.zRem.toNat - 1 := by
  rw [State.feedZ_eq]
  dsimp only
  bv_omega

/-- The count of the block in progress after a byte: of the block that starts here, or of the one that goes on. -/
theorem State.feedZ_zBlk_toNat {s : State} (x : Byte) (hr : 1 ≤ s.zRem.toNat) :
    (s.feedZ x).zBlk.toNat = (if s.zBlk = 0#16 then min s.zRem.toNat storedMax else s.zBlk.toNat) - 1 := by
  rw [State.feedZ_eq]
  dsimp only
  split
  · have hm : 1 ≤ min s.zRem.toNat storedMax ∧ min s.zRem.toNat storedMax < 65536 := by unfold storedMax; omega
    generalize min s.zRem.toNat storedMax = m at hm
    bv_omega
  · bv_omega

theorem State.Inv.feedZ_zHdr {s : State} (h : s.Inv) (x : Byte) : (s.feedZ x).zHdr = true := by
  rw [State.feedZ_eq]
  cases hh : s.zHdr with
  | true => rfl
  | false => simp [h.header_first hh]

/-- The bytes a payload byte emits come off the stream's room exactly: a block's header is emitted where the block stops
being one to come. -/
theorem State.Inv.feedZ_room {s : State} (h : s.Inv) (x : Byte) (hr : 1 ≤ s.zRem.toNat) :
    (s.feedZ x).streamRoom + (s.blockHeader ++ [x]).length = s.streamRoom := by
  have hle := h.zBlk_le
  have hr0 : s.zRem ≠ 0#32 := by rintro h0; simp [h0] at hr
  simp only [State.streamRoom, State.blocksLeft, State.feedZ_zBlk_toNat x hr, State.feedZ_zRem_toNat x hr,
    h.feedZ_zHdr x, hr0, List.length_append, List.length_singleton, State.blockHeader_length, storedMax]
  by_cases hb : s.zBlk = 0#16
  · simp [hb]
    omega
  · have : 1 ≤ s.zBlk.toNat := by bv_omega
    simp [hb]
    omega

/-- A payload byte of an open stream that still expects one keeps the invariants. -/
theorem State.Inv.feedZ {s : State} (h : s.Inv) (hz : s.zOpen = true) (hr : 1 ≤ s.zRem.toNat) (x : Byte) :
    (s.feedZ x).Inv where
  adlA_le := by rw [State.feedZ_eq]; exact (adlByte_le _ x).1
  adlB_le := by rw [State.feedZ_eq]; exact (adlByte_le _ x).2
  zBlk_le := by
    have := h.zBlk_le
    rw [State.feedZ_zBlk_toNat x hr, State.feedZ_zRem_toNat x hr]
    split <;> omega
  closed_stream hz' := by rw [(s.feedZ_frame x).zOpen, hz] at hz'; cases hz'
  fits_chunk _ hc := by
    rw [(s.feedZ_frame x).chkOpen] at hc
    have hroom := h.feedZ_room x hr
    have hfit : s.streamRoom ≤ s.chkRem.toNat := h.fits_chunk hz hc
    rw [State.feedZ_chkRem, State.emitted_chkRem_toNat hc (by omega)]
    change (s.feedZ x).streamRoom ≤ _
    omega
  closed_chunk hc := by
    rw [(s.feedZ_frame x).chkOpen] at hc
    simpa [State.feedZ_chkRem, hc] using h.closed_chunk hc
  header_first hh := by rw [h.feedZ_zHdr x] at hh; cases hh

theorem State.Inv.feedAll {s : State} (h : s.Inv) (hz : s.zOpen = true) (p : List Byte)
    (hp : p.length ≤ s.zRem.toNat) : (s.feedAll p).Inv := by
  induction p generalizing s with
  | nil => exact h
  | cons x xs ih =>
    rw [List.length_cons] at hp
    have hr : 1 ≤ s.zRem.toNat := by omega
    refine ih (h.feedZ hz hr x) ((s.feedZ_frame x).zOpen.trans hz) ?_
    rw [State.feedZ_zRem_toNat x hr]
    omega

theorem State.Inv.framed {s : State} (h : s.Inv) (hz : s.zOpen = true) {p : List Byte}
    (hp : p.length ≤ s.zRem.toNat) : (s.framed p).Inv :=
  State.feedAll_eq s p hp ▸ h.feedAll hz p hp

theorem State.Inv.routed {s : State} (h : s.Inv) {p : List Byte} (hp : s.zOpen = true → p.length ≤ s.zRem.toNat) :
    (s.routed p).Inv := by
  cases hz : s.zOpen with
  | true => rw [State.routed_stream p hz]; exact h.framed hz (hp hz)
  | false => rw [State.routed_no_stream p hz]; exact h.emitted_no_stream hz p

/-! ### Beginning and ending a stream (43_zlib_framer.md R183, R187, R189) -/

/-- What is still to come of a stream just begun, and its 2-byte header, are the `zsize(N)` bytes of R183. -/
theorem State.openStream_room (N : Word) (s : State) :
    (s.openStream N).streamRoom + zlibHeader.length = zsize N.toNat := by
  have hN : N = 0#32 ↔ N.toNat = 0 := by bv_omega
  simp only [State.streamRoom, State.openStream, State.blocksLeft, zsize, blockCount, storedMax, zlibHeader, hN,
    List.length_cons, List.length_nil, BitVec.toNat_ofNat, true_and]
  split <;> omega

theorem State.Inv.zlbBegin {s : State} (h : s.Inv) {N : Word}
    (hfit : s.chkOpen = true → zsize N.toNat ≤ s.chkRem.toNat) : ((s.openStream N).emitted zlibHeader).Inv := by
  have hroom (hc : s.chkOpen = true) : (s.openStream N).streamRoom + zlibHeader.length ≤ s.chkRem.toNat :=
    s.openStream_room N ▸ hfit hc
  have hopen : (s.openStream N).Inv :=
    { adlA_le := by simp [State.openStream]
      adlB_le := by simp [State.openStream]
      zBlk_le := Nat.zero_le _
      closed_stream := fun hz => by cases hz
      fits_chunk := fun _ hc => (Nat.le_add_right _ _).trans (hroom hc)
      closed_chunk := h.closed_chunk
      header_first := fun _ => rfl }
  exact hopen.emitted fun _ => hroom

/-- With no payload missing no block is in progress either, so the counts of the closed stream are 0. -/
theorem State.Inv.closeStream {s : State} (h : s.Inv) (hr : s.zRem = 0#32) : s.closeStream.Inv where
  adlA_le := h.adlA_le
  adlB_le := h.adlB_le
  zBlk_le := h.zBlk_le
  closed_stream _ := by
    have hle := h.zBlk_le
    rw [hr] at hle
    have hb : s.zBlk = 0#16 := by bv_omega
    exact ⟨hb, hr⟩
  fits_chunk hz := by cases hz
  closed_chunk := h.closed_chunk
  header_first hh := by cases hh

/-! ### Every command, every step -/

/-- A command that passes its checks keeps the invariants. -/
theorem State.Inv.effectOf {s : State} (h : s.Inv) {i : Instr} (hp : Passes i s) : (effectOf i s).Inv := by
  cases i with
  | srst => exact State.inv_reset.of_eq rfl rfl rfl rfl rfl rfl rfl rfl
  | nop | raw _ | crcInit | crcFeed _ | crcPut | adlPut | fltCfg _ _ => exact h.of_eq rfl rfl rfl rfl rfl rfl rfl rfl
  | adlInit => exact h.with_sums (by decide) (by decide)
  | adlFeed n =>
    obtain ⟨ha, hb⟩ := foldl_adlByte_le (s.inBytes n) (s.adlA, s.adlB) h.adlA_le h.adlB_le
    exact (h.inDrop n).with_sums ha hb
  | zlbBegin N => exact h.zlbBegin (passes_zlbBegin.mp hp).2
  | zlbData n =>
    obtain ⟨hz, hn⟩ := passes_zlbData.mp hp
    exact (h.inDrop n).framed hz ((List.length_take_le n s.inq).trans hn)
  | zlbEnd => exact (h.closeStream (passes_zlbEnd.mp hp).2).emitted_no_stream rfl _
  | chkBegin L T =>
    obtain ⟨-, hz, -⟩ := passes_chkBegin.mp hp
    have hopen : ({ s with chkOpen := true, chkRem := L } : State).Inv := h.with_chunk hz fun hc => by cases hc
    exact hopen.of_eq rfl rfl rfl rfl rfl rfl rfl rfl
  | chkData n =>
    obtain ⟨-, hz, -⟩ := passes_chkData.mp hp
    exact (h.inDrop n).emitted_no_stream hz _
  | chkEnd =>
    obtain ⟨-, hz, hr⟩ := passes_chkEnd.mp hp
    have hclosed : ({ s with chkOpen := false, chkRem := s.chkRem } : State).Inv := h.with_chunk hz fun _ => hr
    exact hclosed.of_eq rfl rfl rfl rfl rfl rfl rfl rfl
  | fltRows r =>
    obtain ⟨-, hstream, -⟩ := passes_fltRows.mp hp
    exact (h.inDrop _).routed fun hz => (filterRows_length_le _ _ _ _).trans (hstream hz)

theorem State.Inv.exec {s t : State} (h : s.Inv) {i : Instr} (he : exec i s = .next t) : t.Inv := by
  rcases exec_cases he with ⟨_, _, rfl⟩ | ⟨_, _, c, _, _, rfl⟩ | ⟨_, _, _, _, rfl⟩ | ⟨_, hp, _, rfl⟩
  · exact h
  · exact h.of_eq rfl rfl rfl rfl rfl rfl rfl rfl
  · exact h.of_eq rfl rfl rfl rfl rfl rfl rfl rfl
  · rw [performOf_eq_effectOf hp]
    exact h.effectOf hp

/-- Settles O40: taking words, waiting and raising an error leave the unit fields alone, and every command that passes its
checks keeps the invariants. -/
theorem everyStepKeepsTheStateInvariants : Obligations.EveryStepKeepsTheStateInvariants := by
  intro s t h hstep
  have hresume : s.resume.Inv := h.of_eq rfl rfl rfl rfl rfl rfl rfl rfl
  have htaken (rest : List Word) : (s.taken rest).Inv := h.of_eq rfl rfl rfl rfl rfl rfl rfl rfl
  rcases step_cases hstep with ⟨i, _, he⟩ | ⟨_, _, rfl⟩ | ⟨_, why, w0, rest, _, hill⟩ | ⟨_, i, rest, _, he⟩
  · exact hresume.exec he
  · exact h.of_eq rfl rfl rfl rfl rfl rfl rfl rfl
  · rcases hill with ⟨_, rfl⟩ | ⟨_, rfl⟩
    · exact htaken rest
    · exact (htaken rest).of_eq rfl rfl rfl rfl rfl rfl rfl rfl
  · exact (htaken rest).exec he

end Sys2Proof.Machine
end

section
/-! ## The error record and the fetch state are kept by every step (10_state.md R27, R28, R41) -/

namespace Sys2Proof.Machine

theorem State.errorRecord_reset : State.reset.ErrorRecord := ⟨by decide, by decide⟩

theorem State.fetchInv_reset : State.reset.FetchInv := ⟨by decide, fun _ h => by cases h⟩

/-- `State.ErrorRecord` reads the three fields of the record only. -/
theorem State.ErrorRecord.of_eq {s t : State} (h : s.ErrorRecord) (he : t.err = s.err) (hc : t.errCode = s.errCode)
    (hw : t.errCmd = s.errCmd) : t.ErrorRecord := by
  constructor <;> simp only [he, hc, hw]
  exacts [h.code_iff, h.no_command]

/-- Raising an error sets the flag and a code together (60_exceptions.md R283). -/
theorem State.ErrorRecord.raiseError {code : ErrCode} (hc : code ≠ .noError) (w0 : Word) (s : State) :
    (s.raiseError code w0).ErrorRecord :=
  ⟨⟨fun _ => hc, fun _ => rfl⟩, fun he => by cases he⟩

theorem illegalCode_ne_noError (why : Illegal) : illegalCode why ≠ .noError := by
  cases why <;> decide

theorem State.ErrorRecord.exec {s t : State} (h : s.ErrorRecord) {i : Instr} (he : exec i s = .next t) :
    t.ErrorRecord := by
  rcases exec_cases he with ⟨_, _, rfl⟩ | ⟨_, _, c, hc, _, rfl⟩ | ⟨_, _, _, _, rfl⟩ | ⟨_, _, _, rfl⟩
  · exact h
  · exact .raiseError hc _ s
  · exact h.of_eq rfl rfl rfl
  · have hframe := performOf_frame i s
    by_cases hi : i = .srst
    · subst hi
      exact State.errorRecord_reset.of_eq rfl rfl rfl
    · exact h.of_eq (hframe.err hi) (hframe.errCode hi) (hframe.errCmd hi)

/-- Settles O41: only raising an error and SRST write the record, and both leave it in its form. -/
theorem everyStepKeepsTheErrorRecord : Obligations.EveryStepKeepsTheErrorRecord := by
  intro s t h hstep
  have hresume : s.resume.ErrorRecord := h.of_eq rfl rfl rfl
  have htaken (rest : List Word) : (s.taken rest).ErrorRecord := h.of_eq rfl rfl rfl
  rcases step_cases hstep with ⟨i, _, he⟩ | ⟨_, _, rfl⟩ | ⟨_, why, w0, rest, _, hill⟩ | ⟨_, i, rest, _, he⟩
  · exact hresume.exec he
  · exact h.of_eq rfl rfl rfl
  · rcases hill with ⟨_, rfl⟩ | ⟨_, rfl⟩
    · exact htaken rest
    · exact .raiseError (illegalCode_ne_noError why) w0 _
  · exact (htaken rest).exec he

/-! ### The assembler and the command in execution -/

theorem commandLength_le (w0 : Word) : commandLength w0 ≤ 3 := by
  unfold commandLength
  split
  · rename_i o _
    cases o <;> decide
  · decide

/-- Words of which the decoder makes no whole command are at most two (30_encoding.md R92). -/
theorem length_le_of_decode_incomplete {ws : List Word} (h : decode ws = .incomplete) : ws.length ≤ 2 := by
  cases ws with
  | nil => simp
  | cons w0 ws =>
    have hlt := decode_incomplete.mp h
    have hle := commandLength_le w0
    simp only [List.length_cons]
    omega

theorem fitsImm_immOf (w0 : Word) : fitsImm (immOf w0).toNat = true :=
  decide_eq_true (immOf w0).isLt

theorem zeroImm_wf {w0 : Word} {i j : Instr} {ws rest : List Word} (hi : i.wf = true)
    (h : zeroImm w0 i ws = .command j rest) : j.wf = true := by
  obtain ⟨_, rfl, _⟩ := zeroImm_command h
  exact hi

/-- The decoder gives well-formed commands only: a count comes from the 24 bits of IMM (R90, R91). -/
theorem decodeDefined_wf {o : Opcode} {w0 : Word} {ws rest : List Word} {i : Instr}
    (h : decodeDefined o w0 ws = .command i rest) : i.wf = true := by
  cases o
  case raw | crcFeed | adlFeed | zlbData | chkData | fltRows => cases h; exact fitsImm_immOf w0
  case fltCfg =>
    cases ws with
    | nil => cases h
    | cons w1 ws => cases h; exact fitsImm_immOf w0
  case zlbBegin =>
    cases ws with
    | nil => cases h
    | cons w1 ws => exact zeroImm_wf rfl h
  case chkBegin =>
    match ws, h with
    | w1 :: w2 :: ws, h => exact zeroImm_wf rfl h
  all_goals exact zeroImm_wf rfl h

theorem decode_wf {ws rest : List Word} {i : Instr} (h : decode ws = .command i rest) : i.wf = true := by
  cases ws with
  | nil => cases h
  | cons w0 ws =>
    cases ho : lookupOpcode (opcOf w0) with
    | none => rw [decode_cons_reserved ws ho] at h; cases h
    | some o => rw [decode_cons_defined ws ho] at h; exact decodeDefined_wf h

/-- The checks read no field that waiting writes. -/
theorem passes_await {i : Instr} {s : State} (j : Instr) (h : Passes i s) : Passes i (s.await j) := by
  cases i <;> exact h

/-- A well-formed command, run with no command in execution, leaves the assembler as it is, and waits only where it has
passed its checks. -/
theorem exec_fetchInv {s t : State} (hasm : decode s.asmWords = .incomplete) (hnone : s.current = none)
    {i : Instr} (hwf : i.wf = true) (he : exec i s = .next t) : t.FetchInv := by
  have hidle {u : State} (ha : u.asmWords = s.asmWords) (hc : u.current = s.current) : u.FetchInv :=
    ⟨ha ▸ hasm, fun j hj => by rw [hc, hnone] at hj; cases hj⟩
  rcases exec_cases he with ⟨_, _, rfl⟩ | ⟨_, _, c, _, _, rfl⟩ | ⟨herr, _, hp, _, rfl⟩ | ⟨_, _, _, rfl⟩
  · exact hidle rfl rfl
  · exact hidle rfl rfl
  · refine ⟨hasm, fun j hj => ?_⟩
    cases hj
    exact ⟨hwf, herr, passes_await i hp⟩
  · exact hidle (performOf_frame i s).asmWords (performOf_frame i s).current

theorem State.FetchInv.step {s t : State} (h : s.FetchInv) (hstep : step s = .next t) : t.FetchInv := by
  have hnil : decode [] = .incomplete := rfl
  rcases step_cases hstep with ⟨i, hi, he⟩ | ⟨hc, hd, rfl⟩ | ⟨hc, why, w0, rest, _, hill⟩ | ⟨hc, i, rest, hd, he⟩
  · exact exec_fetchInv (s := s.resume) h.partly rfl (h.current_ok i hi).1 he
  · exact ⟨hd, fun j hj => by cases hc.symm.trans hj⟩
  · rcases hill with ⟨_, rfl⟩ | ⟨_, rfl⟩ <;> exact ⟨hnil, fun j hj => by cases hc.symm.trans hj⟩
  · exact exec_fetchInv (s := s.taken rest) hnil hc (decode_wf hd) he

/-- Settles O42: the assembler holds words only while no whole command is there, and a command waits only after its
checks. -/
theorem everyStepKeepsTheFetchState : Obligations.EveryStepKeepsTheFetchState := by
  intro s t h hstep
  have ht := h.step hstep
  exact ⟨ht, length_le_of_decode_incomplete ht.partly⟩

end Sys2Proof.Machine
end

section
/-! ## Which commands write which field (10_state.md R21-R27, R45) -/

namespace Sys2Proof.Machine

/-! ### The unit fields -/

/-- `t` has the unit fields of `s`: checksums, chunk, stream and filter (R21-R26). -/
structure State.SameUnits (s t : State) : Prop where
  crc : t.crc = s.crc
  adlA : t.adlA = s.adlA
  adlB : t.adlB = s.adlB
  chkOpen : t.chkOpen = s.chkOpen
  chkRem : t.chkRem = s.chkRem
  zOpen : t.zOpen = s.zOpen
  zRem : t.zRem = s.zRem
  zBlk : t.zBlk = s.zBlk
  zHdr : t.zHdr = s.zHdr
  fltW : t.fltW = s.fltW
  fltCh4 : t.fltCh4 = s.fltCh4

/-- A command writes unit fields only by its effect, after its checks (40_control.md R121, R122). -/
theorem exec_units {i : Instr} {s t : State} (h : exec i s = .next t) :
    s.SameUnits t ∨ (Passes i s ∧ t = effectOf i s) := by
  rcases exec_cases h with ⟨_, _, rfl⟩ | ⟨_, _, c, _, _, rfl⟩ | ⟨_, _, _, _, rfl⟩ | ⟨_, hp, _, rfl⟩
  · exact .inl ⟨rfl, rfl, rfl, rfl, rfl, rfl, rfl, rfl, rfl, rfl, rfl⟩
  · exact .inl ⟨rfl, rfl, rfl, rfl, rfl, rfl, rfl, rfl, rfl, rfl, rfl⟩
  · exact .inl ⟨rfl, rfl, rfl, rfl, rfl, rfl, rfl, rfl, rfl, rfl, rfl⟩
  · exact .inr ⟨hp, performOf_eq_effectOf hp⟩

/-! ### Payload of the open chunk -/

/-- The commands whose bytes go through the chunk stage (20_memory.md R66). -/
def emittingOpcodes : List Opcode := [.chkData, .zlbBegin, .zlbData, .zlbEnd, .fltRows]

/-- The chunk stage counts and sums only bytes that go out, and only in an open chunk (R66). -/
theorem State.emitted_writes_chunk {s : State} {e : List Byte}
    (h : (s.emitted e).crc ≠ s.crc ∨ (s.emitted e).chkRem ≠ s.chkRem) :
    s.chkOpen = true ∧ (s.emitted e).outq ≠ s.outq := by
  constructor
  · by_contra hc
    simp [hc] at h
  · intro hq
    have he : e = [] := by simpa using hq
    simp [he, State.emitted_nil] at h

theorem effectOf_emits {i : Instr} (hi : i.opcode ∈ emittingOpcodes) (s : State) :
    ∃ e, (effectOf i s).crc = (s.emitted e).crc ∧ (effectOf i s).chkRem = (s.emitted e).chkRem ∧
      (effectOf i s).outq = (s.emitted e).outq := by
  cases i with
  | zlbBegin _ | zlbData _ | zlbEnd | chkData _ => exact ⟨_, rfl, rfl, rfl⟩
  | fltRows r =>
    dsimp only [effectOf, State.routed]
    split <;> exact ⟨_, rfl, rfl, rfl⟩
  | _ => exact absurd hi (by simp [Instr.opcode, emittingOpcodes])

theorem effectOf_writes_chunk {i : Instr} (hi : i.opcode ∈ emittingOpcodes) {s : State}
    (h : (effectOf i s).crc ≠ s.crc ∨ (effectOf i s).chkRem ≠ s.chkRem) :
    s.chkOpen = true ∧ (effectOf i s).outq ≠ s.outq := by
  obtain ⟨e, hcrc, hrem, hout⟩ := effectOf_emits hi s
  rw [hcrc, hrem] at h
  rw [hout]
  exact State.emitted_writes_chunk h

theorem exec_writes_crc {i : Instr} {s t : State} (h : exec i s = .next t) (hne : t.crc ≠ s.crc) :
    i = .srst ∨ i = .crcInit ∨ (∃ n, i = .crcFeed n) ∨ (∃ L T, i = .chkBegin L T) ∨
      (s.chkOpen = true ∧ t.outq ≠ s.outq ∧ i.opcode ∈ emittingOpcodes) := by
  rcases exec_units h with hs | ⟨-, rfl⟩
  · exact absurd hs.crc hne
  by_cases hi : i.opcode ∈ emittingOpcodes
  · obtain ⟨hc, hq⟩ := effectOf_writes_chunk hi (.inl hne)
    simp [hc, hq, hi]
  · cases i with
    | srst | crcInit | crcFeed _ | chkBegin _ _ => simp
    | zlbBegin _ | zlbData _ | zlbEnd | chkData _ | fltRows _ => simp [Instr.opcode, emittingOpcodes] at hi
    | _ => exact absurd rfl hne

theorem exec_writes_chkRem {i : Instr} {s t : State} (h : exec i s = .next t) (hne : t.chkRem ≠ s.chkRem) :
    i = .srst ∨ (∃ L T, i = .chkBegin L T) ∨
      (s.chkOpen = true ∧ t.outq ≠ s.outq ∧ i.opcode ∈ emittingOpcodes) := by
  rcases exec_units h with hs | ⟨-, rfl⟩
  · exact absurd hs.chkRem hne
  by_cases hi : i.opcode ∈ emittingOpcodes
  · obtain ⟨hc, hq⟩ := effectOf_writes_chunk hi (.inr hne)
    simp [hc, hq, hi]
  · cases i with
    | srst | chkBegin _ _ => simp
    | zlbBegin _ | zlbData _ | zlbEnd | chkData _ | fltRows _ => simp [Instr.opcode, emittingOpcodes] at hi
    | _ => exact absurd rfl hne

/-! ### The stream, the chunk's owner and the filter -/

/-- A command that feeds payload to an open stream (20_memory.md R67, R68). -/
def FeedsStream (i : Instr) (s : State) : Prop :=
  s.zOpen = true ∧ ((∃ n, i = .zlbData n) ∨ ∃ r, i = .fltRows r)

theorem feedsStream_zlbData {n : Nat} {s : State} (hp : Passes (.zlbData n) s) : FeedsStream (.zlbData n) s :=
  ⟨(passes_zlbData.mp hp).1, .inl ⟨n, rfl⟩⟩

/-- Without a stream FLT_ROWS writes no field of the framer, so where it writes one it feeds the stream. -/
theorem feedsStream_fltRows {r : Nat} {s : State} {α : Type} {field : State → α}
    (hfield : ∀ n e, field ((s.inDrop n).emitted e) = field s) (hne : field (effectOf (.fltRows r) s) ≠ field s) :
    FeedsStream (.fltRows r) s := by
  refine ⟨?_, .inr ⟨r, rfl⟩⟩
  by_contra hz
  apply hne
  rw [effectOf, State.routed_no_stream _ (by simpa using hz)]
  exact hfield _ _

theorem exec_writes_sums {i : Instr} {s t : State} (h : exec i s = .next t)
    (hne : t.adlA ≠ s.adlA ∨ t.adlB ≠ s.adlB) :
    i = .srst ∨ i = .adlInit ∨ (∃ n, i = .adlFeed n) ∨ (∃ N, i = .zlbBegin N) ∨ FeedsStream i s := by
  have hsums : (t.adlA, t.adlB) ≠ (s.adlA, s.adlB) := by simpa [Prod.ext_iff, imp_iff_not_or] using hne
  rcases exec_units h with hs | ⟨hp, rfl⟩
  · simp [hs.adlA, hs.adlB] at hne
  cases i with
  | srst | adlInit | adlFeed _ | zlbBegin _ => simp
  | zlbData n => simp [feedsStream_zlbData hp]
  | fltRows r => simp [feedsStream_fltRows (field := fun u => (u.adlA, u.adlB)) (fun _ _ => rfl) hsums]
  | _ => exact absurd rfl hsums

theorem exec_writes_streamCounts {i : Instr} {s t : State} (h : exec i s = .next t)
    (hne : t.zRem ≠ s.zRem ∨ t.zBlk ≠ s.zBlk) :
    i = .srst ∨ (∃ N, i = .zlbBegin N) ∨ FeedsStream i s := by
  have hcounts : (t.zRem, t.zBlk) ≠ (s.zRem, s.zBlk) := by simpa [Prod.ext_iff, imp_iff_not_or] using hne
  rcases exec_units h with hs | ⟨hp, rfl⟩
  · simp [hs.zRem, hs.zBlk] at hne
  cases i with
  | srst | zlbBegin _ => simp
  | zlbData n => simp [feedsStream_zlbData hp]
  | fltRows r => simp [feedsStream_fltRows (field := fun u => (u.zRem, u.zBlk)) (fun _ _ => rfl) hcounts]
  | _ => exact absurd rfl hcounts

theorem exec_writes_zHdr {i : Instr} {s t : State} (h : exec i s = .next t) (hne : t.zHdr ≠ s.zHdr) :
    i = .srst ∨ i = .zlbEnd ∨ (∃ N, i = .zlbBegin N) ∨ FeedsStream i s := by
  rcases exec_units h with hs | ⟨hp, rfl⟩
  · exact absurd hs.zHdr hne
  cases i with
  | srst | zlbEnd | zlbBegin _ => simp
  | zlbData n => simp [feedsStream_zlbData hp]
  | fltRows r => simp [feedsStream_fltRows (field := State.zHdr) (fun _ _ => rfl) hne]
  | _ => exact absurd rfl hne

/-! Routing bytes writes neither owner nor the filter's geometry. -/

theorem State.routed_chkOpen (s : State) (p : List Byte) : (s.routed p).chkOpen = s.chkOpen := by
  unfold State.routed
  split <;> rfl

theorem State.routed_zOpen (s : State) (p : List Byte) : (s.routed p).zOpen = s.zOpen := by
  unfold State.routed
  split <;> rfl

theorem State.routed_fltW (s : State) (p : List Byte) : (s.routed p).fltW = s.fltW := by
  unfold State.routed
  split <;> rfl

theorem State.routed_fltCh4 (s : State) (p : List Byte) : (s.routed p).fltCh4 = s.fltCh4 := by
  unfold State.routed
  split <;> rfl

theorem exec_writes_chkOpen {i : Instr} {s t : State} (h : exec i s = .next t) (hne : t.chkOpen ≠ s.chkOpen) :
    i = .srst ∨ i = .chkEnd ∨ ∃ L T, i = .chkBegin L T := by
  rcases exec_units h with hs | ⟨-, rfl⟩
  · exact absurd hs.chkOpen hne
  cases i with
  | srst | chkEnd | chkBegin _ _ => simp
  | fltRows r => exact absurd (State.routed_chkOpen _ _) hne
  | _ => exact absurd rfl hne

theorem exec_writes_zOpen {i : Instr} {s t : State} (h : exec i s = .next t) (hne : t.zOpen ≠ s.zOpen) :
    i = .srst ∨ i = .zlbEnd ∨ ∃ N, i = .zlbBegin N := by
  rcases exec_units h with hs | ⟨-, rfl⟩
  · exact absurd hs.zOpen hne
  cases i with
  | srst | zlbEnd | zlbBegin _ => simp
  | fltRows r => exact absurd (State.routed_zOpen _ _) hne
  | _ => exact absurd rfl hne

theorem exec_writes_filter {i : Instr} {s t : State} (h : exec i s = .next t)
    (hne : t.fltW ≠ s.fltW ∨ t.fltCh4 ≠ s.fltCh4) : i = .srst ∨ ∃ ch W, i = .fltCfg ch W := by
  have hgeometry : ¬(t.fltW = s.fltW ∧ t.fltCh4 = s.fltCh4) := not_and_or.mpr hne
  rcases exec_units h with hs | ⟨-, rfl⟩
  · exact absurd ⟨hs.fltW, hs.fltCh4⟩ hgeometry
  cases i with
  | srst | fltCfg _ _ => simp
  | fltRows r => exact absurd ⟨State.routed_fltW _ _, State.routed_fltCh4 _ _⟩ hgeometry
  | _ => exact absurd ⟨rfl, rfl⟩ hgeometry

/-! ### The error record -/

/-- The record is written by SRST and by raising an error outside the error state, which writes nothing else
(60_exceptions.md R283). -/
theorem exec_writes_errorRecord {i : Instr} {s t : State} (h : exec i s = .next t)
    (hne : t.err ≠ s.err ∨ t.errCode ≠ s.errCode ∨ t.errCmd ≠ s.errCmd) :
    i = .srst ∨ (s.err = false ∧ ∃ code, code ≠ .noError ∧ t = s.raiseError code i.word0) := by
  rcases exec_cases h with ⟨_, _, rfl⟩ | ⟨he, _, c, hc, _, ht⟩ | ⟨_, _, _, _, rfl⟩ | ⟨_, _, _, rfl⟩
  · simp at hne
  · exact .inr ⟨he, c, hc, ht⟩
  · simp at hne
  · by_contra hi
    have hi : i ≠ .srst := fun h => hi (.inl h)
    have hframe := performOf_frame i s
    simp [hframe.err hi, hframe.errCode hi, hframe.errCmd hi] at hne

/-- Settles O45, field by field; no command touches the command words. -/
theorem onlyTheNamedCommandsWrite : Obligations.OnlyTheNamedCommandsWrite := by
  intro i s t h
  obtain ⟨hasm, hcmdq, -⟩ := exec_frame h
  exact ⟨exec_writes_crc h, exec_writes_sums h, exec_writes_chkOpen h, exec_writes_chkRem h, exec_writes_zOpen h,
    exec_writes_streamCounts h, exec_writes_zHdr h, exec_writes_filter h, exec_writes_errorRecord h, hasm, hcmdq⟩

end Sys2Proof.Machine
end

section
/-! ## BUSY, STATUS, the register map, and reset (10_state.md R30-R44) -/

namespace Sys2Proof.Machine

/-- Settles O16: BUSY is the disjunction of the three tests. -/
theorem busyHasThreeGrounds : Obligations.BusyHasThreeGrounds := by
  intro s
  simp [State.busy, Option.isSome_iff_exists, or_assoc]

/-! ### STATUS -/

/-- A flag's bit, and 0 in every other place. -/
theorem getLsbD_flagAt {k : Nat} (hk : k < 32) (f : Bool) (j : Nat) :
    (flagAt k f).getLsbD j = (f && decide (j = k)) := by
  cases f with
  | false => simp [flagAt]
  | true =>
    simp only [flagAt, if_true, BitVec.getLsbD_shiftLeft, BitVec.getLsbD_one, Bool.true_and]
    grind

/-- STATUS, bit by bit (R34). -/
theorem State.getLsbD_status (s : State) (j : Nat) : s.status.getLsbD j =
    (s.busy && decide (j = 0) || s.err && decide (j = 1) || decide (4 ≤ j) && s.errCode.bits.getLsbD (j - 4) ||
      s.chkOpen && decide (j = 8) || s.zOpen && decide (j = 9) || decide (s.fltW ≠ 0#32) && decide (j = 10) ||
      s.fltCh4 && decide (j = 11)) := by
  have hcode : (s.errCode.bits.setWidth 32 <<< 4).getLsbD j = (decide (4 ≤ j) && s.errCode.bits.getLsbD (j - 4)) := by
    have hbits : 4 ≤ j - 4 → s.errCode.bits.getLsbD (j - 4) = false := BitVec.getLsbD_of_ge _ _
    simp only [BitVec.getLsbD_shiftLeft, BitVec.getLsbD_setWidth]
    grind
  have hw : (s.fltW != 0#32) = decide (s.fltW ≠ 0#32) := by rw [bne, decide_not, beq_eq_decide]
  simp only [State.status, BitVec.getLsbD_or, hcode, hw, getLsbD_flagAt (by decide : 0 < 32),
    getLsbD_flagAt (by decide : 1 < 32), getLsbD_flagAt (by decide : 8 < 32), getLsbD_flagAt (by decide : 9 < 32),
    getLsbD_flagAt (by decide : 10 < 32), getLsbD_flagAt (by decide : 11 < 32)]

theorem State.status_errCode (s : State) : s.status.extractLsb' 4 4 = s.errCode.bits := by
  apply BitVec.eq_of_getLsbD_eq
  intro j hj
  have hplaces : 4 + j ≠ 0 ∧ 4 + j ≠ 1 ∧ 4 + j ≠ 8 ∧ 4 + j ≠ 9 ∧ 4 + j ≠ 10 ∧ 4 + j ≠ 11 := by omega
  rw [BitVec.getLsbD_extractLsb', State.getLsbD_status]
  simp only [hplaces, hj, Nat.le_add_right, Nat.add_sub_cancel_left, decide_true, decide_false, Bool.and_false,
    Bool.true_and, Bool.false_or, Bool.or_false]

/-- The places no field of STATUS stands in. -/
theorem State.getLsbD_status_reserved (s : State) {j : Nat} (hj : j = 2 ∨ j = 3 ∨ 12 ≤ j) :
    s.status.getLsbD j = false := by
  have hplaces : j ≠ 0 ∧ j ≠ 1 ∧ j ≠ 8 ∧ j ≠ 9 ∧ j ≠ 10 ∧ j ≠ 11 := by omega
  have hcode : (decide (4 ≤ j) && s.errCode.bits.getLsbD (j - 4)) = false := by
    rcases Nat.lt_or_ge j 4 with h4 | h4
    · simp [Nat.not_le.mpr h4]
    · rw [BitVec.getLsbD_of_ge s.errCode.bits (j - 4) (by omega), Bool.and_false]
  rw [State.getLsbD_status, hcode]
  simp [hplaces]

theorem State.status_reserved (s : State) :
    s.status.extractLsb' 2 2 = 0#2 ∧ s.status.extractLsb' 12 20 = 0#20 := by
  constructor <;> refine BitVec.eq_of_getLsbD_eq fun j hj => ?_ <;>
    rw [BitVec.getLsbD_extractLsb', State.getLsbD_status_reserved s (by omega)] <;> simp

theorem State.status_reset : State.reset.status = 0#32 := by decide

/-- Settles O17: each field is read off STATUS bit by bit, and the codes are those of R281. -/
theorem statusFields : Obligations.StatusFields := by
  refine ⟨fun s => ?_, fun s => ?_, State.status_reset⟩
  · obtain ⟨hlow, hhigh⟩ := s.status_reserved
    refine ⟨?_, ?_, hlow, s.status_errCode, ?_, ?_, ?_, ?_, hhigh⟩ <;> rw [State.getLsbD_status] <;> simp
  · rw [s.status_errCode]
    refine ⟨?_, ?_, ?_, ?_, ?_, ?_⟩ <;> intro h <;> rw [h] <;> rfl

/-! ### Register reads -/

theorem State.readPort_idle {s : State} (h : s.busy = false) (k : Nat) (a : BitVec 3) : s.readPort k a = s.register a := by
  simp [State.readPort, h]

theorem State.readPort_busy_status {s : State} (h : s.busy = true) (k : Nat) :
    s.readPort k 0#3 = Config.busyDraw k 0#3 ||| 1#32 := by
  simp [State.readPort, h]

theorem State.readPort_busy {s : State} (h : s.busy = true) (k : Nat) {a : BitVec 3} (ha : a ≠ 0#3) :
    s.readPort k a = Config.busyDraw k a := by
  simp [State.readPort, h, ha]

/-- The two halves of ADLER_VALUE (R36). -/
theorem adlerOut_halves (a b : BitVec 16) :
    (adlerOut a b).extractLsb' 0 16 = a ∧ (adlerOut a b).extractLsb' 16 16 = b := by
  constructor <;> refine BitVec.eq_of_getLsbD_eq fun j hj => ?_ <;>
    simp only [adlerOut, BitVec.getLsbD_extractLsb', BitVec.getLsbD_or, BitVec.getLsbD_shiftLeft,
      BitVec.getLsbD_setWidth]
  · have hlt : j < 32 := by omega
    simp [hj, hlt]
  · have hlt : 16 + j < 32 ∧ j < 32 := by omega
    simp [hj, hlt]

/-- Z_BLK, bit by bit (R39). -/
theorem getLsbD_zBlkRegister (blk : BitVec 16) (hdr : Bool) (j : Nat) :
    (blk.setWidth 32 ||| flagAt 16 hdr).getLsbD j = (blk.getLsbD j || hdr && decide (j = 16)) := by
  have hblk : (blk.setWidth 32).getLsbD j = blk.getLsbD j := by
    rw [BitVec.getLsbD_setWidth, Bool.and_eq_right_iff_imp]
    intro h
    have := BitVec.lt_of_getLsbD h
    simp
    omega
  rw [BitVec.getLsbD_or, hblk, getLsbD_flagAt (by decide)]

theorem zBlkRegister_fields (blk : BitVec 16) (hdr : Bool) :
    (blk.setWidth 32 ||| flagAt 16 hdr).extractLsb' 0 16 = blk ∧
    (blk.setWidth 32 ||| flagAt 16 hdr).getLsbD 16 = hdr ∧
    (blk.setWidth 32 ||| flagAt 16 hdr).extractLsb' 17 15 = 0#15 := by
  refine ⟨BitVec.eq_of_getLsbD_eq fun j hj => ?_, ?_, BitVec.eq_of_getLsbD_eq fun j hj => ?_⟩
  · have hne : j ≠ 16 := by omega
    rw [BitVec.getLsbD_extractLsb', getLsbD_zBlkRegister]
    simp [hj, hne]
  · rw [getLsbD_zBlkRegister]
    simp
  · have hne : 17 + j ≠ 16 := by omega
    have hhigh : blk.getLsbD (17 + j) = false := BitVec.getLsbD_of_ge _ _ (by omega)
    rw [BitVec.getLsbD_extractLsb', getLsbD_zBlkRegister, hhigh]
    simp [hne]

/-- Settles O18: an idle read is the register, and each register is the field it names. -/
theorem registerMapReads : Obligations.RegisterMapReads := by
  intro s k h
  simp only [State.readPort_idle h]
  obtain ⟨ha, hb⟩ := adlerOut_halves s.adlA s.adlB
  obtain ⟨hblk, hhdr, hzero⟩ := zBlkRegister_fields s.zBlk s.zHdr
  exact ⟨rfl, rfl, ha, hb, rfl, rfl, hblk, hhdr, hzero, rfl, rfl⟩

/-- Settles O19: a busy read of STATUS is the free value with bit 0 set, of another register the free value itself. -/
theorem busyReadsAreUnspecified : Obligations.BusyReadsAreUnspecified := by
  intro s k a
  refine ⟨fun h => ?_, fun h j hj => ?_, fun h ha => State.readPort_busy h k ha, fun h => State.readPort_idle h k a⟩
  · simp [State.readPort_busy_status h]
  · have hj0 : j ≠ 0 := by omega
    simp [State.readPort_busy_status h, BitVec.getLsbD_one, hj0]

/-! ### Reset -/

/-- Settles O20: hardware reset is the reset state, and SRST keeps the streams and the assembler beside it. -/
theorem resetValues : Obligations.ResetValues := fun s => ⟨rfl, exec_srst s⟩

/-- Settles O39. -/
theorem stateInvariantsHoldAtReset : Obligations.StateInvariantsHoldAtReset :=
  ⟨State.inv_reset, State.errorRecord_reset, State.fetchInv_reset⟩

end Sys2Proof.Machine
end

section
/-! ## The streams around a command (20_memory.md R72, R78; 70_reset_and_hazards.md R315) -/

namespace Sys2Proof.Machine

/-! ### A block with other words and bytes around it -/

/-- The block with these command words in the assembler and in the FIFO, these bytes before its output and these behind its
input: what else a run has at hand when a command executes. -/
def State.amid (asm cmd : List Word) (before behind : List Byte) (s : State) : State :=
  { s with asmWords := asm, cmdq := cmd, outq := before ++ s.outq, inq := s.inq ++ behind }

section
variable (asm cmd : List Word) (before behind : List Byte) (i : Instr) (s : State)

theorem checkOf_amid : checkOf i (s.amid asm cmd before behind) = checkOf i s := by
  cases i <;> rfl

theorem passes_amid : Passes i (s.amid asm cmd before behind) ↔ Passes i s := by
  rw [← check_none, checkOf_amid, check_none]

theorem needBytes_amid : needBytes i (s.amid asm cmd before behind) = needBytes i s := by
  cases i <;> rfl

theorem State.emitted_amid (e : List Byte) :
    (s.amid asm cmd before behind).emitted e = (s.emitted e).amid asm cmd before behind := by
  simp only [State.emitted, State.amid, List.append_assoc]
  rfl

theorem State.framed_amid (p : List Byte) :
    (s.amid asm cmd before behind).framed p = (s.framed p).amid asm cmd before behind := by
  simp only [State.framed, State.emitted_amid]
  rfl

theorem State.routed_amid (p : List Byte) :
    (s.amid asm cmd before behind).routed p = (s.routed p).amid asm cmd before behind := by
  rw [State.routed, State.framed_amid, State.emitted_amid]
  exact (apply_ite (State.amid asm cmd before behind) ..).symm

variable {s} {n : Nat}

/-- Bytes taken from an input stream that holds them are its own, whatever is queued behind it (R72). -/
theorem State.inBytes_amid (h : n ≤ s.inq.length) : (s.amid asm cmd before behind).inBytes n = s.inBytes n :=
  List.take_append_of_le_length h

theorem State.inDrop_amid (h : n ≤ s.inq.length) :
    (s.amid asm cmd before behind).inDrop n = (s.inDrop n).amid asm cmd before behind := by
  simp [State.inDrop, State.amid, List.drop_append_of_le_length h]

variable {i}

/-- The effect of a command whose input bytes are there is the same whatever stands around it. -/
theorem effectOf_amid (hn : needBytes i s ≤ s.inq.length) :
    effectOf i (s.amid asm cmd before behind) = (effectOf i s).amid asm cmd before behind := by
  cases i with
  | nop | srst | crcInit | adlInit | fltCfg _ _ => rfl
  | raw n =>
    rw [effectOf, State.inBytes_amid _ _ _ _ (n := n) hn, State.inDrop_amid _ _ _ _ (n := n) hn]
    simp [effectOf, State.amid]
  | crcFeed n | adlFeed n =>
    rw [effectOf, State.inBytes_amid _ _ _ _ (n := n) hn, State.inDrop_amid _ _ _ _ (n := n) hn]
    rfl
  | crcPut | adlPut | chkBegin _ _ | chkEnd => simp [effectOf, State.amid]
  | zlbBegin N => exact State.emitted_amid _ _ _ _ (s.openStream N) _
  | zlbEnd => exact State.emitted_amid _ _ _ _ s.closeStream _
  | zlbData n =>
    rw [effectOf, State.inBytes_amid _ _ _ _ (n := n) hn, State.inDrop_amid _ _ _ _ (n := n) hn]
    exact State.framed_amid ..
  | chkData n =>
    rw [effectOf, State.inBytes_amid _ _ _ _ (n := n) hn, State.inDrop_amid _ _ _ _ (n := n) hn]
    exact State.emitted_amid ..
  | fltRows r =>
    rw [effectOf, needBytes_amid, State.inBytes_amid _ _ _ _ hn, State.inDrop_amid _ _ _ _ hn]
    exact State.routed_amid ..

theorem performOf_amid (hp : Passes i s) (hn : needBytes i s ≤ s.inq.length) :
    performOf i (s.amid asm cmd before behind) = (performOf i s).amid asm cmd before behind := by
  rw [performOf_eq_effectOf ((passes_amid ..).mpr hp), performOf_eq_effectOf hp, effectOf_amid _ _ _ _ hn]

/-- A command that executes leaves the same whatever stands around it. -/
theorem exec_performs_amid (he : s.err = false) (hp : Passes i s) (hn : needBytes i s ≤ s.inq.length) :
    exec i (s.amid asm cmd before behind) = .next ((performOf i s).amid asm cmd before behind) := by
  rw [← performOf_amid _ _ _ _ hp hn]
  refine exec_performs he ((passes_amid ..).mpr hp) ?_
  rw [needBytes_amid]
  exact hn.trans (by simp [State.amid])

/-- A command that does not wait leaves the same whatever stands around it. -/
theorem exec_amid {t : State} (h : exec i s = .next t) :
    exec i (s.amid asm cmd before behind) = .next (t.amid asm cmd before behind) ∨ t = s.await i := by
  rcases exec_cases h with ⟨he, hi, rfl⟩ | ⟨he, _, c, _, hc, rfl⟩ | ⟨_, _, _, _, ht⟩ | ⟨he | rfl, hp, hn, rfl⟩
  · exact .inl (exec_err he hi)
  · exact .inl (exec_fails he ((checkOf_amid ..).trans hc))
  · exact .inr ht
  · exact .inl (exec_performs_amid _ _ _ _ he hp hn)
  · exact .inl rfl

end

/-! ### What a command does to the streams -/

/-- The block with every output byte taken by the host. -/
def State.drained (s : State) : State := { s with outq := [] }

theorem passes_drained {i : Instr} {s : State} : Passes i s.drained ↔ Passes i s := by
  cases i <;> exact Iff.rfl

theorem needBytes_drained (i : Instr) (s : State) : needBytes i s.drained = needBytes i s := by
  cases i <;> rfl

theorem State.drained_amid (s : State) (before behind : List Byte) :
    s.drained.amid s.asmWords s.cmdq before behind = { s with inq := s.inq ++ behind, outq := before } := by
  simp [State.drained, State.amid]

theorem State.drained_amid_self (s : State) : s.drained.amid s.asmWords s.cmdq s.outq [] = s := by
  simp [State.drained_amid]

/-- The output a command's effect adds is its output when none came before it. -/
theorem performOf_outq {i : Instr} {s : State} (hp : Passes i s) (hn : needBytes i s ≤ s.inq.length) :
    (performOf i s).outq = s.outq ++ (performOf i s.drained).outq := by
  have h := performOf_amid s.asmWords s.cmdq s.outq [] (passes_drained.mpr hp) ((needBytes_drained i s).le.trans hn)
  rw [State.drained_amid_self] at h
  rw [h, State.amid]

/-- `t` has the streams of `s`, but for bytes taken from the front of the input and bytes added at the end of the output. -/
def State.Advances (s t : State) : Prop := (∃ k, t.inq = s.inq.drop k) ∧ ∃ e, t.outq = s.outq ++ e

theorem State.Advances.of_eq {s t : State} (hin : t.inq = s.inq) (hout : t.outq = s.outq) : s.Advances t :=
  ⟨⟨0, hin⟩, [], by simp [hout]⟩

/-- A command takes its input from the front and adds its output at the end (R61, R62). -/
theorem exec_advances {i : Instr} {s t : State} (h : exec i s = .next t) : s.Advances t := by
  rcases exec_cases h with ⟨_, _, rfl⟩ | ⟨_, _, c, _, _, rfl⟩ | ⟨_, _, _, _, rfl⟩ | ⟨_, hp, hn, rfl⟩
  · exact .of_eq rfl rfl
  · exact .of_eq rfl rfl
  · exact .of_eq rfl rfl
  · exact ⟨⟨_, (performOf_frame i s).inq⟩, _, performOf_outq hp hn⟩

/-- Settles O43: taking words, waiting and raising an error touch neither stream, and a command's effect drops its own input
and appends its own output. -/
theorem streamsOnlyAdvance : Obligations.StreamsOnlyAdvance := by
  intro s t h
  rcases step_cases h with ⟨i, _, he⟩ | ⟨_, _, rfl⟩ | ⟨_, why, w0, rest, _, ⟨_, rfl⟩ | ⟨_, rfl⟩⟩ | ⟨_, i, rest, _, he⟩
  · exact exec_advances (s := s.resume) he
  · exact State.Advances.of_eq rfl rfl
  · exact State.Advances.of_eq rfl rfl
  · exact State.Advances.of_eq rfl rfl
  · exact exec_advances (s := s.taken rest) he

/-- Settles O44: with any bytes around it the command leaves what it leaves on the drained block, with those bytes around. -/
theorem commandDependsOnlyOnItsOwnInput : Obligations.CommandDependsOnlyOnItsOwnInput := by
  intro i s t he hp hn ht
  have around (o x : List Byte) := exec_performs_amid s.asmWords s.cmdq o x (s := s.drained) he
    (passes_drained.mpr hp) ((needBytes_drained i s).le.trans hn)
  have hself := around s.outq []
  rw [State.drained_amid_self, ht] at hself
  cases hself
  refine ⟨?_, (performOf i s.drained).outq, rfl, fun x o => ?_⟩
  · rw [State.amid, (performOf_frame i s.drained).inq, needBytes_drained, List.append_nil]
    rfl
  · rw [← State.drained_amid, around]
    simp [State.amid]

end Sys2Proof.Machine
end

section
/-! ## Runs: the order of steps and transfers does not matter (20_memory.md R72, R78; 70_reset_and_hazards.md R323, R324) -/

namespace Sys2Proof

/-! ### The decoder on more words -/

/-- What the decoder finds when more words come behind those it has seen. -/
def Fetched.followedBy (v : List Word) : Fetched → Fetched
  | .incomplete => .incomplete
  | .illegal why w0 rest => .illegal why w0 (rest ++ v)
  | .command i rest => .command i (rest ++ v)

theorem zeroImm_append (w0 : Word) (i : Instr) (rest v : List Word) :
    zeroImm w0 i (rest ++ v) = (zeroImm w0 i rest).followedBy v := by
  unfold zeroImm
  split <;> rfl

theorem decodeDefined_append {o : Opcode} {w0 : Word} {ws : List Word} (v : List Word)
    (h : decodeDefined o w0 ws ≠ .incomplete) :
    decodeDefined o w0 (ws ++ v) = (decodeDefined o w0 ws).followedBy v := by
  cases o with
  | zlbBegin =>
    cases ws with
    | nil => exact absurd rfl h
    | cons w1 rest => exact zeroImm_append ..
  | chkBegin =>
    match ws with
    | [] | [_] => exact absurd rfl h
    | w1 :: w2 :: rest => exact zeroImm_append ..
  | fltCfg =>
    cases ws with
    | nil => exact absurd rfl h
    | cons w1 rest => rfl
  | raw | crcFeed | adlFeed | zlbData | chkData | fltRows => rfl
  | _ => exact zeroImm_append ..

/-- A whole command at the front is the same whatever words come behind it (30_encoding.md R92). -/
theorem decode_append {ws : List Word} (v : List Word) (h : decode ws ≠ .incomplete) :
    decode (ws ++ v) = (decode ws).followedBy v := by
  cases ws with
  | nil => exact absurd rfl h
  | cons w0 ws =>
    cases hl : lookupOpcode (opcOf w0) with
    | none => rw [List.cons_append, decode_cons_reserved _ hl, decode_cons_reserved _ hl]; rfl
    | some o =>
      rw [decode_cons_defined _ hl] at h
      rw [List.cons_append, decode_cons_defined _ hl, decode_cons_defined _ hl, decodeDefined_append v h]

end Sys2Proof

namespace Sys2Proof.Machine

/-! ### Every step answers -/

theorem exec_answers (i : Instr) (s : State) : ∃ t, exec i s = .next t := by
  by_cases hi : i = .srst
  · exact ⟨_, hi ▸ exec_srst s⟩
  · rw [exec_eq i s hi]
    unfold execute
    split
    · exact ⟨_, rfl⟩
    · split
      · exact ⟨_, rfl⟩
      · split <;> exact ⟨_, rfl⟩

/-- A step leads to a next state (log entry 11). -/
theorem step_answers (s : State) : ∃ t, step s = .next t := by
  cases hc : s.current with
  | some i => rw [step_current hc]; exact exec_answers i _
  | none =>
    cases hd : decode s.commandWords with
    | incomplete => exact ⟨_, step_incomplete hc hd⟩
    | illegal why w0 rest =>
      rw [step_illegal hc hd]
      unfold executeIllegal
      split <;> exact ⟨_, rfl⟩
    | command i rest => rw [step_command hc hd]; exact exec_answers i _

theorem State.step_stepped (s : State) : step s = .next s.stepped := by
  obtain ⟨t, ht⟩ := step_answers s
  rw [State.stepped_of_step ht, ht]

/-! ### The block with the host's hands joined to it -/

/-- The block as it stands if the host had pushed every word and byte it has, and had taken no output byte: transfers do not
change it. The words are all in the command FIFO. -/
def System.joined (y : System) : State :=
  y.block.amid [] (y.block.commandWords ++ y.words) y.taken y.bytes

/-- A step, with the words it leaves all in the command FIFO. -/
def State.advanced (s : State) : State := s.stepped.taken s.stepped.commandWords

/-- A transfer changes nothing of the joined block (20_memory.md R60). -/
theorem System.joined_transfer (y : System) {m : Move} (hm : m ≠ .step) : (y.move m).joined = y.joined := by
  cases m with
  | step => exact absurd rfl hm
  | pushCommand =>
    cases h : y.words with
    | nil => rw [System.move_pushCommand_nil h]
    | cons w rest =>
      rw [System.move_pushCommand_cons h]
      simp [System.joined, State.pushCommand, State.commandWords, State.amid, h]
  | pushInput =>
    cases h : y.bytes with
    | nil => rw [System.move_pushInput_nil h]
    | cons b rest =>
      rw [System.move_pushInput_cons h]
      simp [System.joined, State.pushInput, State.commandWords, State.amid, h]
  | takeOutput =>
    cases h : y.block.outq with
    | nil => rw [System.move_takeOutput_nil h]
    | cons b rest =>
      rw [System.move_takeOutput_cons h]
      simp [System.joined, State.commandWords, State.amid, h]

theorem System.joined_decode {y : System} {f : Fetched} (hd : decode y.block.commandWords = f) (hf : f ≠ .incomplete) :
    decode y.joined.commandWords = f.followedBy y.words := by
  subst hd
  exact decode_append _ hf

theorem State.advanced_of_step {s t : State} (h : step s = .next t) : s.advanced = t.taken t.commandWords := by
  rw [State.advanced, State.stepped_of_step h]

theorem State.advanced_congr {s t : State} (h : step s = step t) : s.advanced = t.advanced :=
  State.advanced_of_step (h.trans t.step_stepped)

/-- Words moved into the assembler are still the command words, in order (R28, R29). -/
theorem State.assemble_commandWords (s : State) : s.assemble.commandWords = s.commandWords := by
  simp [State.commandWords]

/-- The same hands of the host around another block. -/
def System.withBlock (y : System) (c : State) : System := { y with block := c }

/-- A step that executes a command: it is the joined block's step too, unless the command waits; then it is still to come. -/
theorem System.joined_exec {y : System} {i : Instr} {c : State} (hc : c.current = none)
    (hblock : step y.block = exec i c) (hjoined : step y.joined = exec i (y.withBlock c).joined) :
    (y.move .step).joined.advanced = y.joined.advanced ∨ (y.move .step).joined = y.joined.advanced := by
  have hexec : exec i c = .next y.block.stepped := hblock ▸ y.block.step_stepped
  rcases exec_amid [] (c.commandWords ++ y.words) y.taken y.bytes hexec with h | hwait
  · right
    obtain ⟨hasm, hcmdq, -⟩ := exec_frame hexec
    have hwords : y.block.stepped.commandWords = c.commandWords := by
      rw [State.commandWords, State.commandWords, hasm, hcmdq]
    have hstep := hjoined.trans h
    rw [← hwords] at hstep
    exact (State.advanced_of_step hstep).symm
  · left
    apply State.advanced_congr
    have hcur : (y.move .step).joined.current = some i := by
      change y.block.stepped.current = some i
      rw [hwait, State.await_current]
    rw [step_current hcur, hjoined, System.move_step, hwait]
    congr 1
    simp [System.joined, System.withBlock, State.resume, State.amid, State.commandWords, State.await, hc]

theorem executeIllegal_eq (why : Illegal) (w0 : Word) (s : State) :
    executeIllegal why w0 s = .next (if s.err then s else s.raiseError (illegalCode why) w0) := by
  unfold executeIllegal
  split <;> rfl

/-- A step of the system is a step of the joined block, or the joined block goes on as before: the block has waited. -/
theorem System.joined_step (y : System) :
    (y.move .step).joined.advanced = y.joined.advanced ∨ (y.move .step).joined = y.joined.advanced := by
  cases hc : y.block.current with
  | some i => exact System.joined_exec (c := y.block.resume) rfl (step_current hc) (step_current hc)
  | none =>
    cases hd : decode y.block.commandWords with
    | incomplete =>
      left
      rw [System.move_step, State.stepped_of_step (step_incomplete hc hd)]
      simp only [System.joined, State.assemble_commandWords]
      rfl
    | illegal why w0 rest =>
      right
      have hd' := System.joined_decode hd (by simp)
      have hblock := step_illegal hc hd
      have hjoined := step_illegal (s := y.joined) hc hd'
      rw [executeIllegal_eq] at hblock hjoined
      rw [State.advanced_of_step hjoined, System.move_step, State.stepped_of_step hblock]
      cases he : y.block.err <;> simp [System.joined, State.commandWords, State.amid, State.taken, State.raiseError, he]
    | command i rest =>
      have hd' := System.joined_decode hd (by simp)
      exact System.joined_exec (c := y.block.taken rest) hc (step_command hc hd) (step_command (s := y.joined) hc hd')

/-- After any moves the joined block goes on as after some number of its own steps. -/
theorem System.joined_run (y : System) (ms : List Move) :
    ∃ k, (y.run ms).joined.advanced = State.advanced^[k] y.joined := by
  refine System.run_keeps (P := fun z => ∃ k, z.joined.advanced = State.advanced^[k] y.joined) ?_ ms y ⟨1, rfl⟩
  rintro z m ⟨k, hk⟩
  by_cases hm : m = .step
  · subst hm
    rcases z.joined_step with h | h
    · exact ⟨k, h.trans hk⟩
    · exact ⟨k + 1, by rw [h, hk, Function.iterate_succ_apply']⟩
  · exact ⟨k, by rw [z.joined_transfer hm, hk]⟩

/-! ### The end of a run -/

/-- Registers show neither the output nor the input that is queued. -/
theorem State.registers_amid (s : State) (before behind : List Byte) :
    (s.amid s.asmWords s.cmdq before behind).registers = s.registers := rfl

/-- The result of a run is read off the joined block, which has come to rest. -/
theorem System.joined_of_result {y : System} {r : RunResult} (h : y.result = some r) :
    y.joined.advanced = y.joined ∧ r.output = y.joined.outq ∧ r.registers = y.joined.registers ∧
      r.inq ++ y.bytes = y.joined.inq := by
  unfold System.result at h
  split at h
  next hended =>
    cases h
    obtain ⟨hwords, hbusy, hout⟩ := y.ended_iff.mp hended
    obtain ⟨hcmdq, hasm, hcur⟩ := y.block.busy_eq_false.mp hbusy
    have hj : y.joined = y.block.amid y.block.asmWords y.block.cmdq y.taken y.bytes := by
      simp [System.joined, State.commandWords, hwords, hcmdq, hasm]
    have hnone : y.joined.commandWords = [] := by
      simp [System.joined, State.amid, State.commandWords, hwords, hcmdq, hasm]
    have hstep : step y.joined = .next y.joined.assemble := step_incomplete hcur (by rw [hnone]; rfl)
    refine ⟨?_, ?_, ?_, rfl⟩
    · rw [State.advanced_of_step hstep, State.assemble_commandWords]
      rfl
    · simp [System.joined, State.amid, hout]
    · rw [hj, State.registers_amid]
  next => cases h

/-- Settles O58: the moves only iterate one function on the joined block, and an ended run has reached a fixed point of it; a
function reaches at most one fixed point from one start. -/
theorem endedRunsAgree : Obligations.EndedRunsAgree := by
  intro y m n r q hr hq
  obtain ⟨hfix, hout, hreg, hinq⟩ := System.joined_of_result hr
  obtain ⟨hfix', hout', hreg', hinq'⟩ := System.joined_of_result hq
  obtain ⟨j, hj⟩ := y.joined_run m
  obtain ⟨k, hk⟩ := y.joined_run n
  have hagree : (y.run m).joined = (y.run n).joined :=
    calc (y.run m).joined
      _ = State.advanced^[k] (y.run m).joined := ((show Function.IsFixedPt _ _ from hfix).iterate k).symm
      _ = State.advanced^[k] (State.advanced^[j] y.joined) := by rw [← hj, hfix]
      _ = State.advanced^[j] (State.advanced^[k] y.joined) := (Function.Commute.iterate_iterate_self _ k j).eq _
      _ = State.advanced^[j] (y.run n).joined := by rw [← hk, hfix']
      _ = (y.run n).joined := (show Function.IsFixedPt _ _ from hfix').iterate j
  rw [hout, hreg, hinq, hout', hreg', hinq', hagree]
  exact ⟨rfl, rfl, rfl⟩

end Sys2Proof.Machine
end

section
/-! ## Decode and encode (30_encoding.md R90-R97) -/

namespace Sys2Proof

/-! ### Decoding an encoded command -/

theorem Instr.imm_lt {i : Instr} (h : i.wf = true) : i.imm < 16777216 := by
  cases i with
  | raw _ | crcFeed _ | adlFeed _ | zlbData _ | chkData _ | fltCfg _ _ | fltRows _ => exact of_decide_eq_true h
  | _ => exact Nat.zero_lt_succ _

theorem immOf_word0 (i : Instr) : immOf i.word0 = BitVec.ofNat 24 i.imm := immOf_makeWord0 ..

/-- The operand in IMM is read back as the number written (R91). -/
theorem immOf_word0_toNat {i : Instr} (h : i.wf = true) : (immOf i.word0).toNat = i.imm := by
  rw [immOf_word0, BitVec.toNat_ofNat, Nat.mod_eq_of_lt (Instr.imm_lt h)]

theorem lookupOpcode_word0 (i : Instr) : lookupOpcode (opcOf i.word0) = some i.opcode := by
  rw [Instr.word0, opcOf_makeWord0, lookupOpcode_code]

theorem zeroImm_word0 {i : Instr} (h : i.imm = 0) (rest : List Word) : zeroImm i.word0 i rest = .command i rest := by
  rw [zeroImm, immOf_word0, h, if_pos rfl]

theorem decodeDefined_encoded {i : Instr} (h : i.wf = true) (rest : List Word) :
    decodeDefined i.opcode i.word0 (i.args ++ rest) = .command i rest := by
  have himm := immOf_word0_toNat h
  cases i with
  | raw _ | crcFeed _ | adlFeed _ | zlbData _ | chkData _ | fltCfg _ _ | fltRows _ =>
    dsimp only [Instr.opcode, Instr.args, List.cons_append, List.nil_append, decodeDefined]
    rw [himm]
    rfl
  | _ => exact zeroImm_word0 rfl rest

/-- Settles O1: word 0 gives back opcode and operand, and the decoder takes the argument words that were written. -/
theorem encodedCommandDecodesBack : Obligations.EncodedCommandDecodesBack := by
  intro i rest h
  rw [encode, List.cons_append, decode_cons_defined _ (lookupOpcode_word0 i), decodeDefined_encoded h]

/-! ### What decodes is an encoding -/

/-- `w0` and `ws` are the opcode `o` and the operands of `i`, with `rest` behind them (R91). -/
structure Instr.WrittenAs (i : Instr) (o : Opcode) (w0 : Word) (ws rest : List Word) : Prop where
  opcode : i.opcode = o
  imm : BitVec.ofNat 24 i.imm = immOf w0
  args : ws = i.args ++ rest

theorem zeroImm_writtenAs {i j : Instr} {w0 : Word} {rest r : List Word} (hi : i.imm = 0)
    (h : zeroImm w0 i r = .command j rest) : j.WrittenAs i.opcode w0 (i.args ++ r) rest := by
  obtain ⟨himm, rfl, rfl⟩ := zeroImm_command h
  exact ⟨rfl, by rw [hi, himm], rfl⟩

theorem decodeDefined_writtenAs {o : Opcode} {w0 : Word} {ws rest : List Word} {i : Instr}
    (h : decodeDefined o w0 ws = .command i rest) : i.WrittenAs o w0 ws rest := by
  have hself : BitVec.ofNat 24 (immOf w0).toNat = immOf w0 := by simp
  cases o with
  | raw | crcFeed | adlFeed | zlbData | chkData | fltRows => cases h; exact ⟨rfl, hself, rfl⟩
  | fltCfg =>
    cases ws with
    | nil => cases h
    | cons w1 ws => cases h; exact ⟨rfl, hself, rfl⟩
  | zlbBegin =>
    cases ws with
    | nil => cases h
    | cons w1 ws => exact zeroImm_writtenAs rfl h
  | chkBegin =>
    match ws, h with
    | w1 :: w2 :: ws, h => exact zeroImm_writtenAs rfl h
  | _ => exact zeroImm_writtenAs rfl h

theorem eq_encode_of_decode {ws rest : List Word} {i : Instr} (h : decode ws = .command i rest) :
    ws = encode i ++ rest := by
  cases ws with
  | nil => cases h
  | cons w0 ws =>
    cases ho : lookupOpcode (opcOf w0) with
    | none => rw [decode_cons_reserved ws ho] at h; cases h
    | some o =>
      rw [decode_cons_defined ws ho] at h
      obtain ⟨hopc, himm, hargs⟩ := decodeDefined_writtenAs h
      rw [encode, Instr.word0, hopc, code_of_lookupOpcode ho, himm, makeWord0_fields, hargs, List.cons_append]

/-- Settles O2: the opcode is the row's, IMM and the argument words are the operands, and word 0 has no other bits. -/
theorem decodedWordsAreTheEncoding : Obligations.DecodedWordsAreTheEncoding :=
  fun _ _ _ h => ⟨Machine.decode_wf h, eq_encode_of_decode h⟩

/-- Settles O6: each word is read off the tables. -/
theorem sampleWordsDecode : Obligations.SampleWordsDecode := by
  unfold Obligations.SampleWordsDecode
  decide

/-! ### The length a command's opcode sets (R92) -/

theorem encode_length (i : Instr) : (encode i).length = commandLength i.word0 := by
  rw [commandLength_word0]
  cases i <;> rfl

theorem commandLength_defined {w0 : Word} {o : Opcode} (h : lookupOpcode (opcOf w0) = some o) :
    commandLength w0 = o.format.words := by
  rw [commandLength, h]

theorem commandLength_reserved {w0 : Word} (h : lookupOpcode (opcOf w0) = none) : commandLength w0 = 1 := by
  rw [commandLength, h]

theorem lookupOpcode_eq_none {b : BitVec 8} : lookupOpcode b = none ↔ ∀ o : Opcode, o.code ≠ b := by
  constructor
  · rintro h o rfl
    rw [lookupOpcode_code] at h
    cases h
  · intro h
    cases hl : lookupOpcode b with
    | none => rfl
    | some o => exact absurd (code_of_lookupOpcode hl) (h o)

theorem commandLength_eq (w0 : Word) : commandLength w0 =
    if opcOf w0 = 0x30#8 ∨ opcOf w0 = 0x50#8 then 2 else if opcOf w0 = 0x40#8 then 3 else 1 := by
  cases hl : lookupOpcode (opcOf w0) with
  | none =>
    have hne (o : Opcode) : opcOf w0 ≠ o.code := (lookupOpcode_eq_none.mp hl o).symm
    have h30 := hne .zlbBegin
    have h40 := hne .chkBegin
    have h50 := hne .fltCfg
    simp only [Opcode.code] at h30 h40 h50
    simp [commandLength_reserved hl, h30, h40, h50]
  | some o =>
    rw [commandLength_defined hl, ← code_of_lookupOpcode hl]
    cases o <;> rfl

/-- A command the decoder gives takes as many words as its opcode says. -/
theorem rest_of_decode_command {w0 : Word} {ws rest : List Word} {i : Instr} (h : decode (w0 :: ws) = .command i rest) :
    rest = (w0 :: ws).drop (commandLength w0) := by
  have hws := eq_encode_of_decode h
  have hw0 : w0 = i.word0 := (List.cons.inj hws).1
  rw [hws, hw0, ← encode_length, List.drop_left]

end Sys2Proof

namespace Sys2Proof.Machine

/-- A rejected command outside the error state: its words are taken and the error is recorded, nothing else
(60_exceptions.md R283). -/
theorem step_rejects {s : State} {why : Illegal} {w0 : Word} {rest : List Word} (he : s.err = false)
    (hc : s.current = none) (hd : decode s.commandWords = .illegal why w0 rest) :
    step s = .next ((s.taken rest).raiseError (illegalCode why) w0) := by
  rw [step_illegal hc hd, executeIllegal_eq, State.taken_err, he]
  rfl

/-- With its words all there the front command is taken, whatever becomes of it (R92). -/
theorem step_takes_commandLength {s : State} {w0 : Word} {ws : List Word} (hc : s.current = none)
    (hw : s.commandWords = w0 :: ws) (hlen : commandLength w0 ≤ ws.length + 1) :
    ∃ t, step s = .next t ∧ t.asmWords = [] ∧ t.cmdq = (w0 :: ws).drop (commandLength w0) := by
  cases hd : decode (w0 :: ws) with
  | incomplete => exact absurd (decode_incomplete.mp hd) (by omega)
  | illegal why v rest =>
    obtain ⟨u, hu, hrest⟩ := decode_illegal hd
    obtain ⟨rfl, rfl⟩ := List.cons.inj hu
    refine ⟨_, (step_illegal hc (hw ▸ hd)).trans (executeIllegal_eq ..), ?_⟩
    rw [← hrest]
    split <;> exact ⟨rfl, rfl⟩
  | command i rest =>
    obtain ⟨t, ht⟩ := exec_answers i (s.taken rest)
    obtain ⟨hasm, hcmdq, -⟩ := exec_frame ht
    exact ⟨t, (step_command hc (hw ▸ hd)).trans ht, hasm, hcmdq.trans (rest_of_decode_command hd)⟩

/-- Settles O3: the decoder waits exactly while words are missing, and otherwise its answer leaves the words behind the
command. -/
theorem opcodeSetsCommandLength : Obligations.OpcodeSetsCommandLength := by
  refine ⟨commandLength_eq, fun s w0 ws hc hw => ⟨fun hlt => ?_, step_takes_commandLength hc hw⟩⟩
  rw [step_incomplete hc (hw ▸ decode_incomplete.mpr hlt), State.assemble, hw]

/-! ### Reserved opcodes and reserved IMM (R96, R97) -/

theorem lookupOpcode_eq_none_iff_ranges (b : BitVec 8) : lookupOpcode b = none ↔
    (0x03 ≤ b.toNat ∧ b.toNat ≤ 0x0F) ∨ (0x13 ≤ b.toNat ∧ b.toNat ≤ 0x1F) ∨
    (0x23 ≤ b.toNat ∧ b.toNat ≤ 0x2F) ∨ (0x33 ≤ b.toNat ∧ b.toNat ≤ 0x3F) ∨
    (0x43 ≤ b.toNat ∧ b.toNat ≤ 0x4F) ∨ (0x52 ≤ b.toNat) := by
  have hlt := b.isLt
  simp only [lookupOpcode, List.find?_eq_none, Opcode.all, List.forall_mem_cons, List.not_mem_nil, false_implies,
    implies_true, and_true, Opcode.code, beq_iff_eq, BitVec.toNat_eq, BitVec.toNat_ofNat]
  omega

theorem reservedOpcodes_count :
    ((List.range 256).filter fun n => lookupOpcode (BitVec.ofNat 8 n) = none).length = 239 := by
  decide +kernel

/-- Settles O4: a reserved opcode is rejected with its one word. -/
theorem reservedOpcodeRaisesBadOpcode : Obligations.ReservedOpcodeRaisesBadOpcode := by
  refine ⟨lookupOpcode_eq_none_iff_ranges, reservedOpcodes_count, fun s w0 ws he hc hw hl => ?_⟩
  exact step_rejects he hc (hw ▸ decode_cons_reserved ws hl)

theorem zeroImm_reserved {w0 : Word} (h : immOf w0 ≠ 0#24) (i : Instr) (rest : List Word) :
    zeroImm w0 i rest = .illegal .reservedImm w0 rest :=
  if_neg h

/-- A whole command whose IMM is reserved and not 0 is rejected with all its words (R97). -/
theorem decodeDefined_reservedImm {o : Opcode} (ho : o.format = .f0 ∨ o.format = .ft ∨ o = .zlbBegin) {w0 : Word}
    (himm : immOf w0 ≠ 0#24) {ws : List Word} (hlen : o.format.words ≤ ws.length + 1) :
    decodeDefined o w0 ws = .illegal .reservedImm w0 ((w0 :: ws).drop o.format.words) := by
  cases o with
  | raw | crcFeed | adlFeed | zlbData | chkData | fltRows | fltCfg => simp [Opcode.format] at ho
  | zlbBegin =>
    match ws, hlen with
    | w1 :: rest, _ => exact zeroImm_reserved himm ..
    | [], hlen => exact absurd hlen (by decide)
  | chkBegin =>
    match ws, hlen with
    | w1 :: w2 :: rest, _ => exact zeroImm_reserved himm ..
    | [_], hlen => exact absurd hlen (Nat.lt_irrefl 2)
    | [], hlen => exact absurd hlen (by decide)
  | _ => exact zeroImm_reserved himm ..

/-- Settles O5: the decoder rejects the command, and the step records BAD_RSVD. -/
theorem nonzeroReservedImmRaisesBadRsvd : Obligations.NonzeroReservedImmRaisesBadRsvd := by
  intro o ho s w0 ws he hc hw hopc himm hlen
  have hl : lookupOpcode (opcOf w0) = some o := hopc ▸ lookupOpcode_code o
  rw [commandLength_defined hl] at hlen ⊢
  have hd : decode s.commandWords = .illegal .reservedImm w0 ((w0 :: ws).drop o.format.words) := by
    rw [hw, decode_cons_defined ws hl, decodeDefined_reservedImm ho himm hlen]
  exact step_rejects he hc hd

end Sys2Proof.Machine
end

section
/-! ## Splitting a data command (30_encoding.md R101) -/

namespace Sys2Proof.Machine

/-! ### Bytes in two portions -/

theorem State.inBytes_add (m n : Nat) (s : State) : s.inBytes (m + n) = s.inBytes m ++ (s.inDrop m).inBytes n :=
  List.take_add

theorem State.inDrop_inDrop (m n : Nat) (s : State) : (s.inDrop m).inDrop n = s.inDrop (m + n) := by
  simp [State.inDrop, List.drop_drop]

theorem State.framed_zRem_toNat {s : State} {p : List Byte} (h : p.length ≤ s.zRem.toNat) :
    (s.framed p).zRem.toNat = s.zRem.toNat - p.length := by
  have := s.zRem.isLt
  change (s.zRem - BitVec.ofNat 32 p.length).toNat = _
  rw [BitVec.toNat_sub, BitVec.toNat_ofNat]
  omega

/-- The framer takes payload in any portions (20_memory.md R67). -/
theorem State.framed_append {s : State} {p q : List Byte} (h : (p ++ q).length ≤ s.zRem.toNat) :
    s.framed (p ++ q) = (s.framed p).framed q := by
  have hlen : p.length + q.length ≤ s.zRem.toNat := by rwa [List.length_append] at h
  have hp : p.length ≤ s.zRem.toNat := by omega
  have hq : q.length ≤ (s.framed p).zRem.toNat := by rw [State.framed_zRem_toNat hp]; omega
  rw [← State.feedAll_eq s _ h, ← State.feedAll_eq _ q hq, ← State.feedAll_eq s p hp]
  exact List.foldl_append

theorem State.routed_append {s : State} {p q : List Byte} (h : s.zOpen = true → (p ++ q).length ≤ s.zRem.toNat) :
    s.routed (p ++ q) = (s.routed p).routed q := by
  cases hz : s.zOpen with
  | true =>
    rw [State.routed_stream _ hz, State.routed_stream p hz, State.routed_stream (s := s.framed p) q hz,
      State.framed_append (h hz)]
  | false =>
    rw [State.routed_no_stream _ hz, State.routed_no_stream p hz, State.routed_no_stream (s := s.emitted p) q hz,
      State.emitted_emitted]

/-- Rows are filtered one by one, each from its own bytes (44_scanline_filter.md R214). -/
theorem filterRows_append {ch4 : Bool} {W m n : Nat} {a b : List Byte} (ha : a.length = m * (W * channels ch4)) :
    filterRows ch4 W (m + n) (a ++ b) = filterRows ch4 W m a ++ filterRows ch4 W n b := by
  induction m generalizing a with
  | zero =>
    obtain rfl : a = [] := List.eq_nil_of_length_eq_zero (by simpa using ha)
    simp [filterRows]
  | succ m ih =>
    rw [Nat.succ_mul] at ha
    have hrow : W * channels ch4 ≤ a.length := by omega
    have hrest : (a.drop (W * channels ch4)).length = m * (W * channels ch4) := by rw [List.length_drop]; omega
    rw [Nat.succ_add, filterRows, filterRows, List.take_append_of_le_length hrow, List.drop_append_of_le_length hrow,
      ih hrest, List.append_assoc]

/-! ### Each data command in two -/

/-- The command with count `m + n` is, from `s`, the one with count `m` and then the one with count `n`: both pass their
checks, and they need its input and have its effect. -/
structure Splits (c : Nat → Instr) (m n : Nat) (s : State) : Prop where
  first : Passes (c m) s
  second : Passes (c n) (effectOf (c m) s)
  need : needBytes (c m) s + needBytes (c n) (effectOf (c m) s) = needBytes (c (m + n)) s
  effect : effectOf (c n) (effectOf (c m) s) = effectOf (c (m + n)) s

theorem execAll_pair {i j : Instr} {s t u : State} (hi : exec i s = .next t) (hj : exec j t = .next u) :
    execAll [i, j] s = .next u := by
  simp only [execAll, hi, hj]

theorem Splits.execAll_eq {c : Nat → Instr} {m n : Nat} {s : State} (h : Splits c m n s) (he : s.err = false)
    (hsrst : c m ≠ .srst) (hp : Passes (c (m + n)) s) (hn : needBytes (c (m + n)) s ≤ s.inq.length) :
    execAll [c m, c n] s = exec (c (m + n)) s := by
  have hneed := h.need
  have hframe := performOf_frame (c m) s
  rw [performOf_eq_effectOf h.first] at hframe
  have hfirst := exec_performs he h.first (by omega)
  rw [performOf_eq_effectOf h.first] at hfirst
  have hsecond : exec (c n) (effectOf (c m) s) = .next (performOf (c n) (effectOf (c m) s)) := by
    refine exec_performs ((hframe.err hsrst).trans he) h.second ?_
    rw [hframe.inq, List.length_drop]
    omega
  rw [performOf_eq_effectOf h.second, h.effect] at hsecond
  rw [execAll_pair hfirst hsecond, exec_performs he hp hn, performOf_eq_effectOf hp]

section
variable {m n : Nat} {s : State}

theorem splits_raw (hp : Passes (.raw (m + n)) s) : Splits .raw m n s where
  first := hp
  second := hp
  need := rfl
  effect := by
    simp only [effectOf, State.inBytes_add, ← State.inDrop_inDrop, ← List.append_assoc]
    rfl

theorem splits_crcFeed (hp : Passes (.crcFeed (m + n)) s) : Splits .crcFeed m n s where
  first := hp
  second := hp
  need := rfl
  effect := by
    simp only [effectOf, State.inBytes_add, ← State.inDrop_inDrop, List.foldl_append]
    rfl

theorem splits_adlFeed (hp : Passes (.adlFeed (m + n)) s) : Splits .adlFeed m n s where
  first := hp
  second := hp
  need := rfl
  effect := by
    simp only [effectOf, State.inBytes_add, ← State.inDrop_inDrop, List.foldl_append]
    rfl

theorem splits_zlbData (hp : Passes (.zlbData (m + n)) s) : Splits .zlbData m n s := by
  obtain ⟨hz, hle⟩ := passes_zlbData.mp hp
  have hm : (s.inBytes m).length ≤ m := List.length_take_le ..
  have hmn : (s.inBytes (m + n)).length ≤ m + n := List.length_take_le ..
  rw [State.inBytes_add] at hmn
  refine ⟨passes_zlbData.mpr ⟨hz, by omega⟩, passes_zlbData.mpr ⟨hz, ?_⟩, rfl, ?_⟩
  · rw [effectOf, State.framed_zRem_toNat (s := s.inDrop m) (hm.trans (by simp; omega)), State.inDrop_zRem]
    omega
  · rw [effectOf, effectOf, effectOf, State.inBytes_add, ← State.inDrop_inDrop]
    exact (State.framed_append (s := (s.inDrop m).inDrop n) (hmn.trans hle)).symm

theorem splits_chkData (hp : Passes (.chkData (m + n)) s) : Splits .chkData m n s := by
  obtain ⟨hc, hz, hle⟩ := passes_chkData.mp hp
  have hm : (s.inBytes m).length ≤ m := List.length_take_le ..
  refine ⟨passes_chkData.mpr ⟨hc, hz, by omega⟩, passes_chkData.mpr ⟨hc, hz, ?_⟩, rfl, ?_⟩
  · rw [effectOf, State.emitted_chkRem_toNat (s := s.inDrop m) hc (hm.trans (by simp; omega)), State.inDrop_chkRem]
    omega
  · rw [effectOf, effectOf, effectOf, State.inBytes_add, ← State.inDrop_inDrop, ← State.emitted_emitted]
    rfl

theorem needBytes_fltRows_add (m n : Nat) (s : State) :
    needBytes (.fltRows (m + n)) s = needBytes (.fltRows m) s + needBytes (.fltRows n) s := by
  simp only [needBytes, Nat.add_mul]

theorem needBytes_fltRows_routed (r : Nat) (s : State) (p : List Byte) :
    needBytes (.fltRows r) (s.routed p) = needBytes (.fltRows r) s := by
  simp only [needBytes, State.fltCh, State.routed_fltW, State.routed_fltCh4]

theorem filteredLength_add (m n W : Nat) : filteredLength (m + n) W = filteredLength m W + filteredLength n W :=
  Nat.add_mul ..

/-- The filtered bytes of the next `r` rows, from the input that is there (44_scanline_filter.md R214). -/
def State.filteredRows (r : Nat) (s : State) : List Byte :=
  filterRows s.fltCh4 s.fltW.toNat r (s.inBytes (needBytes (.fltRows r) s))

theorem effectOf_fltRows (r : Nat) (s : State) :
    effectOf (.fltRows r) s = (s.inDrop (needBytes (.fltRows r) s)).routed (s.filteredRows r) := rfl

theorem State.filteredRows_length_le (r : Nat) (s : State) :
    (s.filteredRows r).length ≤ filteredLength r s.fltW.toNat :=
  filterRows_length_le ..

theorem State.filteredRows_add (hn : needBytes (.fltRows (m + n)) s ≤ s.inq.length) :
    s.filteredRows (m + n) = s.filteredRows m ++ (s.inDrop (needBytes (.fltRows m) s)).filteredRows n := by
  rw [needBytes_fltRows_add] at hn
  have hlen : (s.inBytes (needBytes (.fltRows m) s)).length = m * (s.fltW.toNat * channels s.fltCh4) := by
    rw [State.inBytes, List.length_take, Nat.min_eq_left (by omega), needBytes, Nat.mul_assoc, State.fltCh]
  rw [State.filteredRows, needBytes_fltRows_add, State.inBytes_add, filterRows_append hlen]
  rfl

/-- Bytes already routed leave the next rows as they are: they come from the input. -/
theorem effectOf_fltRows_routed (r : Nat) (s : State) (p : List Byte) :
    effectOf (.fltRows r) (s.routed p) =
      ((s.inDrop (needBytes (.fltRows r) s)).routed p).routed (s.filteredRows r) := by
  cases hz : s.zOpen with
  | true => rw [State.routed_stream p hz, State.routed_stream (s := s.inDrop _) p hz]; rfl
  | false => rw [State.routed_no_stream p hz, State.routed_no_stream (s := s.inDrop _) p hz]; rfl

/-- The rows that are left still fit the stream, or the chunk, that expected all of them. -/
theorem passes_fltRows_rest (hp : Passes (.fltRows (m + n)) s) : Passes (.fltRows n) (effectOf (.fltRows m) s) := by
  obtain ⟨hw, hstream, hchunk⟩ := passes_fltRows.mp hp
  have hlen := s.filteredRows_length_le m
  rw [filteredLength_add] at hstream hchunk
  rw [effectOf_fltRows]
  cases hz : s.zOpen with
  | true =>
    have hfit := hstream hz
    rw [State.routed_stream (s := s.inDrop _) _ hz]
    refine passes_fltRows.mpr ⟨hw, fun _ => ?_, fun hz' => absurd (hz.symm.trans hz') (by decide)⟩
    rw [State.framed_zRem_toNat (s := s.inDrop _) (by simp; omega)]
    change filteredLength n s.fltW.toNat ≤ s.zRem.toNat - _
    omega
  | false =>
    rw [State.routed_no_stream (s := s.inDrop _) _ hz]
    refine passes_fltRows.mpr ⟨hw, fun hz' => absurd (hz.symm.trans hz') (by decide), fun _ hc => ?_⟩
    have hfit := hchunk hz hc
    rw [State.emitted_chkRem_toNat (s := s.inDrop _) hc (by simp; omega)]
    change filteredLength n s.fltW.toNat ≤ s.chkRem.toNat - _
    omega

theorem splits_fltRows (hp : Passes (.fltRows (m + n)) s) (hn : needBytes (.fltRows (m + n)) s ≤ s.inq.length) :
    Splits .fltRows m n s := by
  obtain ⟨hw, hstream, hchunk⟩ := passes_fltRows.mp hp
  have hle : filteredLength m s.fltW.toNat ≤ filteredLength (m + n) s.fltW.toNat := by
    rw [filteredLength_add]
    exact Nat.le_add_right ..
  have hlen := s.filteredRows_length_le (m + n)
  rw [State.filteredRows_add hn] at hlen
  refine ⟨passes_fltRows.mpr ⟨hw, fun hz => hle.trans (hstream hz), fun hz hc => hle.trans (hchunk hz hc)⟩,
    passes_fltRows_rest hp, ?_, ?_⟩
  · rw [needBytes_fltRows_add, effectOf_fltRows, needBytes_fltRows_routed]
    rfl
  · rw [effectOf_fltRows (m + n), needBytes_fltRows_add, ← State.inDrop_inDrop, State.filteredRows_add hn,
      State.routed_append (s := (s.inDrop _).inDrop _) fun hz => hlen.trans (hstream hz)]
    exact effectOf_fltRows_routed ..

end

/-- Settles O46: each data command splits, its bytes being taken, summed, framed or filtered in order. -/
theorem splitDataCommandsGiveTheSameResult : Obligations.SplitDataCommandsGiveTheSameResult := by
  rintro c m n s (rfl | rfl | rfl | rfl | rfl | rfl) he hp hn
  · exact (splits_raw hp).execAll_eq he (by simp) hp hn
  · exact (splits_crcFeed hp).execAll_eq he (by simp) hp hn
  · exact (splits_adlFeed hp).execAll_eq he (by simp) hp hn
  · exact (splits_zlbData hp).execAll_eq he (by simp) hp hn
  · exact (splits_chkData hp).execAll_eq he (by simp) hp hn
  · exact (splits_fltRows hp hn).execAll_eq he (by simp) hp hn

end Sys2Proof.Machine
end

section
/-! ## Pseudo-instructions (30_encoding.md R100, R101; 46_png_host_sequence.md R265, R266) -/

namespace Sys2Proof.Machine

/-! ### The pieces of a count -/

theorem pieces_sum (n : Nat) : (pieces n).sum = n := by
  have hdiv := Nat.div_add_mod' n maxCount
  rw [pieces, List.sum_append, List.sum_replicate, smul_eq_mul]
  split
  · rw [List.sum_nil]
    omega
  · rw [List.sum_singleton]
    omega

theorem pieces_pos {n k : Nat} (h : k ∈ pieces n) : 1 ≤ k := by
  unfold pieces at h
  rcases List.mem_append.mp h with hfull | hrest
  · rw [List.eq_of_mem_replicate hfull]
    decide
  · split at hrest
    · cases hrest
    · rw [List.mem_singleton.mp hrest]
      omega

/-! ### The repeated data commands -/

/-- `OP* n` of a data command, whose line is refused for its count alone (R100). -/
theorem assembleAll_data (op : Nat → AsmLine) (cmd : Nat → Instr)
    (h : ∀ k, assemble (op k) = assembleImm (cmd k) ∧ (cmd k).wf = fitsImm k) (n : Nat) :
    assembleAll (repeated op n) = some ((pieces n).map cmd) :=
  assembleAll_repeated (fun k hk => (h k).1.trans (assembleImm_of_le (h k).2 hk)) n

theorem assembleAll_crcFeed (n : Nat) : assembleAll (repeated .crcFeed n) = some ((pieces n).map .crcFeed) :=
  assembleAll_data .crcFeed .crcFeed (fun _ => ⟨rfl, rfl⟩) n

theorem assembleAll_adlFeed (n : Nat) : assembleAll (repeated .adlFeed n) = some ((pieces n).map .adlFeed) :=
  assembleAll_data .adlFeed .adlFeed (fun _ => ⟨rfl, rfl⟩) n

theorem assembleAll_zlbData (n : Nat) : assembleAll (repeated .zlbData n) = some ((pieces n).map .zlbData) :=
  assembleAll_data .zlbData .zlbData (fun _ => ⟨rfl, rfl⟩) n

theorem assembleAll_chkData (n : Nat) : assembleAll (repeated .chkData n) = some ((pieces n).map .chkData) :=
  assembleAll_data .chkData .chkData (fun _ => ⟨rfl, rfl⟩) n

theorem assembleAll_fltRows (n : Nat) : assembleAll (repeated .fltRows n) = some ((pieces n).map .fltRows) :=
  assembleAll_data .fltRows .fltRows (fun _ => ⟨rfl, rfl⟩) n

theorem expand_crc32 (n : Nat) : Pseudo.expand (.crc32 n) = some (.crcInit :: (pieces n).map .crcFeed) := by
  rw [Pseudo.expand, Pseudo.lines, assembleAll_cons, assembleAll_crcFeed]
  rfl

theorem expand_adler32 (n : Nat) : Pseudo.expand (.adler32 n) = some (.adlInit :: (pieces n).map .adlFeed) := by
  rw [Pseudo.expand, Pseudo.lines, assembleAll_cons, assembleAll_adlFeed]
  rfl

/-! ### Refusals -/

theorem assembleWord_fits {v : Nat} (h : v < 4294967296) : assembleWord v = some (BitVec.ofNat 32 v) := if_pos h

theorem assembleWord_refused {v : Nat} (h : ¬v < 4294967296) : assembleWord v = none := if_neg h

/-- One refused line refuses all (log entry 17). -/
theorem assembleAll_refused {line : AsmLine} {lines : List AsmLine} (hmem : line ∈ lines) (h : assemble line = none) :
    assembleAll lines = none := by
  obtain ⟨before, behind, rfl⟩ := List.append_of_mem hmem
  rw [assembleAll_append, assembleAll_cons, h]
  cases assembleAll before <;> rfl

theorem expand_zlib (n : Nat) : Pseudo.expand (.zlib n) =
    if n < 4294967296 then some (Instr.zlbBegin (BitVec.ofNat 32 n) :: (pieces n).map .zlbData ++ [Instr.zlbEnd])
    else none := by
  split
  next h =>
    rw [Pseudo.expand, Pseudo.lines, assembleAll_append, assembleAll_cons, assembleAll_zlbData, assemble,
      assembleWord_fits h]
    rfl
  next h =>
    refine assembleAll_refused (line := .zlbBegin n) (by simp [Pseudo.lines]) ?_
    rw [assemble, assembleWord_refused h]
    rfl

theorem expand_chunk (tag : List Char) (n : Nat) : Pseudo.expand (.chunk tag n) =
    if n < 4294967296 then (assembleTag tag).map fun T =>
      Instr.chkBegin (BitVec.ofNat 32 n) T :: (pieces n).map .chkData ++ [Instr.chkEnd]
    else none := by
  split
  next h =>
    rw [Pseudo.expand, Pseudo.lines, assembleAll_append, assembleAll_cons, assembleAll_chkData, assemble,
      assembleWord_fits h]
    cases assembleTag tag <;> rfl
  next h =>
    refine assembleAll_refused (line := .chkBegin n tag) (by simp [Pseudo.lines]) ?_
    rw [assemble, assembleWord_refused h]
    rfl

theorem assembleTag_length {tag : List Char} (h : tag.length ≠ 4) : assembleTag tag = none := by
  unfold assembleTag
  split
  · exact absurd rfl h
  · rfl

/-! ### The PNG sequence -/

theorem assemble_fltCfg (ch W : Nat) : assemble (.fltCfg ch W) =
    if ch < 16777216 ∧ W < 4294967296 then some (.fltCfg ch (BitVec.ofNat 32 W)) else none := by
  by_cases hW : W < 4294967296
  · rw [assemble, assembleWord_fits hW]
    simp [assembleImm, Instr.wf, fitsImm, hW]
  · rw [assemble, assembleWord_refused hW]
    simp [hW]

theorem pngCommands_fits {W H ch : Nat} (hch : ch < 16777216) (hW : W < 4294967296)
    (hsize : zsize (H * (1 + 3 * W)) < 4294967296) : pngCommands W H ch =
      some ([Instr.raw 8, .chkBegin 13#32 tagIHDR, .chkData 13, .chkEnd, .fltCfg ch (BitVec.ofNat 32 W),
          .chkBegin (BitVec.ofNat 32 (zsize (H * (1 + 3 * W)))) tagIDAT, .zlbBegin (BitVec.ofNat 32 (H * (1 + 3 * W)))]
        ++ (pieces H).map .fltRows ++ [Instr.zlbEnd, .chkEnd, .chkBegin 0#32 tagIEND, .chkEnd]) := by
  have hcfg : assemble (.fltCfg ch W) = some (.fltCfg ch (BitVec.ofNat 32 W)) := by
    rw [assemble_fltCfg, if_pos ⟨hch, hW⟩]
  have hidat : assemble (.chkBegin (zsize (H * (1 + 3 * W))) ['I', 'D', 'A', 'T']) =
      some (.chkBegin (BitVec.ofNat 32 (zsize (H * (1 + 3 * W)))) tagIDAT) := by
    rw [assemble, assembleWord_fits hsize]
    rfl
  have hbegin : assemble (.zlbBegin (H * (1 + 3 * W))) = some (.zlbBegin (BitVec.ofNat 32 (H * (1 + 3 * W)))) := by
    rw [assemble, assembleWord_fits (by unfold zsize at hsize; omega)]
    rfl
  rw [pngCommands, pngLines, assembleAll_append, assembleAll_append, assembleAll_fltRows]
  simp only [filteredLength, assembleAll_cons, hcfg, hidat, hbegin]
  rfl

theorem pngCommands_refused {W H ch : Nat}
    (h : ¬(ch < 16777216 ∧ W < 4294967296 ∧ zsize (H * (1 + 3 * W)) < 4294967296)) : pngCommands W H ch = none := by
  by_cases hcfg : ch < 16777216 ∧ W < 4294967296
  · refine assembleAll_refused (line := .chkBegin (zsize (filteredLength H W)) ['I', 'D', 'A', 'T'])
      (by simp [pngLines]) ?_
    rw [assemble, filteredLength, assembleWord_refused fun hsize => h ⟨hcfg.1, hcfg.2, hsize⟩]
    rfl
  · refine assembleAll_refused (line := .fltCfg ch W) (by simp [pngLines]) ?_
    rw [assemble_fltCfg, if_neg hcfg]

/-- Settles O56: every expansion assembles line by line, and one line that does not fit refuses it. -/
theorem pseudoInstructionsAreRefusedOnlyForWhatDoesNotFit :
    Obligations.PseudoInstructionsAreRefusedOnlyForWhatDoesNotFit := by
  refine ⟨fun n => ⟨rfl, pieces_sum n, fun k hk => ⟨pieces_pos hk, pieces_le hk⟩⟩, fun n => ?_, expand_zlib,
    expand_chunk, fun _ => assembleTag_length, fun _ _ _ _ => rfl, fun W H ch => ⟨rfl, ?_⟩⟩
  · have hraw := assembleAll_data .raw .raw (fun _ => ⟨rfl, rfl⟩) n
    exact ⟨hraw, assembleAll_crcFeed n, assembleAll_adlFeed n, assembleAll_zlbData n, assembleAll_chkData n,
      assembleAll_fltRows n, expand_crc32 n, expand_adler32 n⟩
  · split
    next h =>
      obtain ⟨hch, hW, hsize⟩ := h
      exact pngCommands_fits hch hW hsize
    next h => exact pngCommands_refused h

end Sys2Proof.Machine
end

section
/-! ## The execution cycle and the control commands (40_control.md R120-R127) -/

namespace Sys2Proof.Machine

/-- Settles O7. -/
theorem stepRunsTheDecodedCommand : Obligations.StepRunsTheDecodedCommand :=
  ⟨fun _ _ _ => step_command, fun _ _ => step_current⟩

/-! ### Checks and `Need` -/

/-- Settles O9: outside format FN no command has a count. -/
theorem needOfEachCommand : Obligations.NeedOfEachCommand := by
  refine fun s => ⟨fun n => ⟨rfl, rfl, rfl, rfl, rfl⟩, fun r => rfl, fun i hi => ?_⟩
  cases i with
  | raw _ | crcFeed _ | adlFeed _ | zlbData _ | chkData _ | fltRows _ => exact absurd rfl hi
  | _ => rfl

/-- The checks read neither stream (R122). -/
theorem passes_streams {i : Instr} {s : State} {x o : List Byte} :
    Passes i { s with inq := x, outq := o } ↔ Passes i s := by
  cases i <;> exact Iff.rfl

theorem passes_resume {i : Instr} {s : State} : Passes i s.resume ↔ Passes i s := by
  cases i <;> exact Iff.rfl

theorem needBytes_resume (i : Instr) (s : State) : needBytes i s.resume = needBytes i s := by
  cases i <;> rfl

theorem passes_nop (s : State) : Passes .nop s := by simp [Passes, badStateIf, badArgIf, badLenIf]

theorem passes_raw {n : Nat} {s : State} : Passes (.raw n) s ↔ s.chkOpen = false ∧ s.zOpen = false := by
  simp [Passes, badStateIf, badArgIf, badLenIf]

/-- A command in the wrong state fails with BAD_STATE, the first check in the order of 60_exceptions.md R284. -/
theorem exec_badState {i : Instr} {s : State} (he : s.err = false) (h : badStateIf i s) : FailsWith i s .badState :=
  exec_fails he ((check_some i s _).mpr (.inl ⟨h, rfl⟩))

/-- A command that does not pass fails with an error code (R122). -/
theorem exec_not_passes {i : Instr} {s : State} (he : s.err = false) (hp : ¬Passes i s) :
    ∃ code, code ≠ .noError ∧ FailsWith i s code := by
  cases hc : checkOf i s with
  | none => exact absurd ((check_none i s).mp hc) hp
  | some code =>
    refine ⟨code, ?_, exec_fails he hc⟩
    rintro rfl
    simpa using (check_some i s _).mp hc

/-- A command that passes its checks raises no error, whether it waits or has its effect (R122). -/
theorem exec_passes_err {i : Instr} {s t : State} (he : s.err = false) (hp : Passes i s) (h : exec i s = .next t) :
    t.err = false := by
  rcases exec_cases h with ⟨_, _, rfl⟩ | ⟨_, _, c, _, hc, _⟩ | ⟨_, _, _, _, rfl⟩ | ⟨_, _, _, rfl⟩
  · exact he
  · rw [(check_none i s).mpr hp] at hc
    cases hc
  · exact he
  · by_cases hi : i = .srst
    · subst hi
      rfl
    · rw [(performOf_frame i s).err hi, he]

/-- Settles O13: the checks come before everything else, and read no stream. -/
theorem commandsArePrecise : Obligations.CommandsArePrecise := by
  refine fun i s he => ⟨exec_not_passes he, fun hp => ?_, fun x o => passes_streams⟩
  obtain ⟨t, ht⟩ := exec_answers i s
  exact ⟨t, ht, exec_passes_err he hp ht⟩

/-! ### Waiting for input bytes (R127) -/

/-- The command `i` is in execution, has passed its checks outside the error state, and lacks input bytes. -/
structure State.Starves (i : Instr) (s : State) : Prop where
  current : s.current = some i
  err : s.err = false
  passes : Passes i s
  short : s.inq.length < needBytes i s

/-- Run again without its bytes, the command waits again, and nothing changes (log entry 1). -/
theorem State.Starves.step {i : Instr} {s : State} (h : s.Starves i) : step s = .next s := by
  have hwaits : exec i s.resume = .next (s.resume.await i) :=
    exec_waits h.err (passes_resume.mpr h.passes) (h.short.trans_eq (needBytes_resume i s).symm)
  have hsame : s.resume.await i = s := by
    rw [State.await, State.resume, ← h.current]
  rw [step_current h.current, hwaits, hsame]

/-- Settles O8: such a command is put in execution, is run again without effect, and needs at least one byte. -/
theorem commandWaitsForItsInput : Obligations.CommandWaitsForItsInput := by
  refine ⟨fun _ _ => exec_waits, fun _ _ he hp hn hc => State.Starves.step ⟨hc, he, hp, hn⟩,
    fun i s hneed => ?_⟩
  obtain ⟨t, ht⟩ := exec_answers i s
  obtain ⟨-, -, hcur | ⟨-, hshort⟩⟩ := exec_frame ht
  · exact ⟨t, ht, hcur⟩
  · exact absurd (hneed ▸ hshort) (Nat.not_lt_zero _)

/-! ### The error state (R123; 60_exceptions.md R286) -/

theorem decode_srst (ws : List Word) : decode (0x01000000#32 :: ws) = .command .srst ws :=
  encodedCommandDecodesBack .srst ws rfl

/-- Only the word 0x01000000 decodes to SRST. -/
theorem ne_srst_of_decode {w0 : Word} {ws rest : List Word} {i : Instr} (h : decode (w0 :: ws) = .command i rest)
    (hw0 : w0 ≠ 0x01000000#32) : i ≠ .srst := by
  rintro rfl
  exact hw0 (List.cons.inj (eq_encode_of_decode h)).1

/-- In the error state a whole front command other than the word 0x01000000 is taken, and that is all. -/
theorem step_discards {s : State} {w0 : Word} {ws : List Word} (he : s.err = true) (hc : s.current = none)
    (hw : s.commandWords = w0 :: ws) (hlen : commandLength w0 ≤ ws.length + 1) (hw0 : w0 ≠ 0x01000000#32) :
    step s = .next (s.taken ((w0 :: ws).drop (commandLength w0))) := by
  cases hd : decode (w0 :: ws) with
  | incomplete => exact absurd (decode_incomplete.mp hd) (Nat.not_lt.mpr hlen)
  | illegal why v rest =>
    obtain ⟨u, hu, hrest⟩ := decode_illegal hd
    obtain ⟨rfl, rfl⟩ := List.cons.inj hu
    rw [step_illegal hc (hw ▸ hd), executeIllegal_eq, State.taken_err, he, if_pos rfl, hrest]
  | command i rest =>
    rw [step_command hc (hw ▸ hd), exec_err (s := s.taken rest) he (ne_srst_of_decode hd hw0),
      rest_of_decode_command hd]

theorem step_srst {s : State} {ws : List Word} (hc : s.current = none) (hw : s.commandWords = 0x01000000#32 :: ws) :
    step s = .next (s.taken ws).softReset := by
  rw [step_command hc (hw ▸ decode_srst ws), exec_srst]

/-- Settles O14: `Execute` discards, the decoder frames, and SRST alone goes past the error gate. -/
theorem errorStateDiscardsAllButSrst : Obligations.ErrorStateDiscardsAllButSrst :=
  ⟨fun _ _ => exec_err, fun _ _ _ => step_discards, fun _ _ _ hc hw => ⟨_, step_srst hc hw, rfl, rfl⟩⟩

/-! ### NOP, SRST and RAW (R124-R126) -/

theorem exec_nop (s : State) : exec .nop s = .next s := by
  cases he : s.err with
  | true => exact exec_err he nofun
  | false => exact exec_performs he (passes_nop s) (Nat.zero_le _)

/-- Settles O22: in the error state NOP is discarded, and outside it its effect is to skip. -/
theorem nopChangesNothing : Obligations.NopChangesNothing :=
  ⟨rfl, nonzeroReservedImmRaisesBadRsvd .nop (.inl rfl), exec_nop⟩

/-- Settles O23: another word with SRST's opcode is one word long, and is discarded as every command is. -/
theorem srstResetsEveryField : Obligations.SrstResetsEveryField := by
  refine ⟨rfl, nonzeroReservedImmRaisesBadRsvd .srst (.inl rfl), exec_srst, fun s w0 ws he hc hw hopc hw0 => ?_⟩
  have hlookup : lookupOpcode (opcOf w0) = some .srst := hopc ▸ lookupOpcode_code .srst
  have hlen : commandLength w0 = 1 := commandLength_defined hlookup
  rw [step_discards he hc hw (by omega) hw0, hlen]
  rfl

/-- A command without argument words, as the number its one word is (30_encoding.md R90). -/
theorem encode_no_args {i : Instr} (hargs : i.args = []) (himm : i.imm < 16777216) :
    encode i = [BitVec.ofNat 32 (i.opcode.code.toNat * 16777216 + i.imm)] := by
  rw [encode, hargs, Instr.word0, makeWord0_ofNat _ _ himm]

/-- Settles O24: RAW's one check is on the open chunk and stream, and its effect moves its bytes. -/
theorem rawPassesBytesThrough : Obligations.RawPassesBytesThrough := by
  refine ⟨fun n hn => ?_, fun n s he => ⟨exec_badState (i := .raw n) he, fun hc hz hn => ?_⟩⟩
  · rw [encode_no_args (i := .raw n) rfl hn]
    simp [Instr.opcode, Opcode.code, Instr.imm]
  · have hp : Passes (.raw n) s := passes_raw.mpr ⟨hc, hz⟩
    rw [exec_performs he hp hn, performOf_eq_effectOf hp]
    rfl

/-! ### Runs that hang (R127; 70_reset_and_hazards.md R318, R324) -/

theorem State.busy_of_current {s : State} {i : Instr} (h : s.current = some i) : s.busy = true := by
  simp [State.busy, h]

theorem State.busy_iff_none {s : State} (hc : s.current = none) : s.busy = true ↔ s.commandWords ≠ [] := by
  simp [State.busy, State.commandWords, hc, imp_iff_or_not, or_comm]

/-- If even all the bytes the host still has leave the command short, the block alone is short of them too. -/
theorem System.starves_block {y : System} {i : Instr} (h : y.joined.Starves i) : y.block.Starves i := by
  refine ⟨h.current, h.err, (passes_amid ..).mp h.passes, ?_⟩
  have hshort := h.short
  rw [System.joined, needBytes_amid] at hshort
  refine Nat.lt_of_le_of_lt ?_ hshort
  simp [State.amid]

/-- Transfers do not change the joined block, and a step of the starving block changes nothing. -/
theorem System.starves_move {i : Instr} (y : System) (m : Move) (h : y.joined.Starves i) :
    (y.move m).joined.Starves i := by
  by_cases hm : m = .step
  · subst hm
    rw [System.move_step, State.stepped_of_step (System.starves_block h).step]
    exact h
  · rwa [y.joined_transfer hm]

theorem System.hangs_of_starves {y : System} {i : Instr} (h : y.joined.Starves i) : y.Hangs := fun ms =>
  State.busy_of_current (System.run_keeps System.starves_move ms y h).current

/-- The host has no word left, and the words that are there end inside a command. -/
def System.EndsInsideCommand (y : System) : Prop := y.words = [] ∧ y.block.WaitingForWords

/-- A step moves the words into the assembler, and no transfer brings another. -/
theorem System.endsInsideCommand_move (y : System) (m : Move) (h : y.EndsInsideCommand) :
    (y.move m).EndsInsideCommand := by
  obtain ⟨hwords, hcur, hne, hd⟩ := h
  cases m with
  | step =>
    rw [System.move_step, State.stepped_of_step (step_incomplete hcur hd)]
    refine ⟨hwords, hcur, ?_, ?_⟩ <;> rwa [State.assemble_commandWords]
  | pushCommand =>
    rw [System.move_pushCommand_nil hwords]
    exact ⟨hwords, hcur, hne, hd⟩
  | pushInput =>
    cases hb : y.bytes with
    | nil => rw [System.move_pushInput_nil hb]; exact ⟨hwords, hcur, hne, hd⟩
    | cons b rest => rw [System.move_pushInput_cons hb]; exact ⟨hwords, hcur, hne, hd⟩
  | takeOutput =>
    cases ho : y.block.outq with
    | nil => rw [System.move_takeOutput_nil ho]; exact ⟨hwords, hcur, hne, hd⟩
    | cons b rest => rw [System.move_takeOutput_cons ho]; exact ⟨hwords, hcur, hne, hd⟩

theorem System.hangs_of_endsInsideCommand {y : System} (h : y.EndsInsideCommand) : y.Hangs := fun ms => by
  obtain ⟨-, hcur, hne, -⟩ := System.run_keeps System.endsInsideCommand_move ms y h
  exact (State.busy_iff_none hcur).mpr hne

theorem commandLength_pos (w0 : Word) : 0 < commandLength w0 := by
  rw [commandLength_eq]
  split
  · decide
  · split <;> decide

/-- A busy block that stands still waits: a command that does not wait leaves execution, and a whole command at the
front is taken. -/
theorem State.waits_of_step_self {s : State} (hbusy : s.busy = true) (hstep : step s = .next s) :
    s.Waiting ∨ s.WaitingForWords := by
  cases hc : s.current with
  | some i =>
    rw [step_current hc] at hstep
    obtain ⟨-, -, hcur | ⟨-, hshort⟩⟩ := exec_frame hstep
    · rw [hc] at hcur
      cases hcur
    · exact .inl ⟨i, hc, needBytes_resume i s ▸ hshort⟩
  | none =>
    cases hw : s.commandWords with
    | nil => exact absurd hw ((State.busy_iff_none hc).mp hbusy)
    | cons w0 ws =>
      rcases Nat.lt_or_ge (ws.length + 1) (commandLength w0) with hlt | hlen
      · exact .inr ⟨hc, by simp [hw], hw ▸ decode_incomplete.mpr hlt⟩
      · obtain ⟨t, ht, hasm, hcmdq⟩ := step_takes_commandLength hc hw hlen
        cases ht.symm.trans hstep
        rw [State.commandWords, hasm, hcmdq, List.nil_append] at hw
        have hlength := congrArg List.length hw
        have hpos := commandLength_pos w0
        simp only [List.length_drop, List.length_cons] at hlength
        omega

/-- Settles O59: both waits are kept by every move of the block and its host, and are the only ways to stand still. -/
theorem runsThatHang : Obligations.RunsThatHang := by
  refine ⟨fun y i hfetch hc hshort => ?_, fun y hwait hwords => System.hangs_of_endsInsideCommand ⟨hwords, hwait⟩,
    fun s => State.waits_of_step_self⟩
  obtain ⟨-, he, hp⟩ := hfetch.current_ok i hc
  refine System.hangs_of_starves (i := i) ⟨hc, he, (passes_amid ..).mpr hp, ?_⟩
  rw [System.joined, needBytes_amid]
  simpa [State.amid] using hshort

end Sys2Proof.Machine
end

section
/-! ## CRC-32 (41_crc32.md) -/

namespace Sys2Proof.Machine

/-! ### The update and its byte table (R141, R146) -/

/-- A turn of the loop is linear over XOR: the polynomial goes in by the parity of the low bits. -/
theorem crcBit_xor (a b : Word) : crcBit (a ^^^ b) = crcBit a ^^^ crcBit b := by
  simp only [crcBit, BitVec.getLsbD_xor, BitVec.ushiftRight_xor_distrib]
  cases a.getLsbD 0 <;> cases b.getLsbD 0
  · rfl
  · simp [BitVec.xor_assoc]
  · simp [BitVec.xor_assoc, BitVec.xor_comm crcPoly]
  · simp [BitVec.xor_assoc, BitVec.xor_comm crcPoly]

theorem crcEight_xor (a b : Word) : crcEight (a ^^^ b) = crcEight a ^^^ crcEight b := by
  simp only [crcEight, crcBit_xor]

theorem crcBit_even {c : Word} (h : c.getLsbD 0 = false) : crcBit c = c >>> 1 :=
  if_neg (ne_true_of_eq_false h)

/-- Where the low byte is 0, the eight turns only shift. -/
theorem crcEight_low_zero {c : Word} (h : ∀ k < 8, c.getLsbD k = false) : crcEight c = c >>> 8 := by
  have hturn (n : Nat) (hn : n < 8) : crcBit (c >>> n) = c >>> (n + 1) := by
    rw [crcBit_even (by simpa using h n hn), BitVec.shiftRight_add]
  have hfirst : crcBit c = c >>> 1 := by simpa using hturn 0 (by decide)
  simp [crcEight, hfirst, hturn]

/-- A register value is its low byte and the rest. -/
theorem lowByte_xor_high (c : Word) : (c.setWidth 8).setWidth 32 ^^^ (c >>> 8) <<< 8 = c := by
  ext k hk
  by_cases hlow : k < 8
  · simp [hlow, BitVec.getLsbD_eq_getElem hk]
  · simp [hlow, Nat.add_sub_cancel' (Nat.le_of_not_lt hlow), BitVec.getLsbD_eq_getElem hk]

theorem high_shiftRight (c : Word) : (c >>> 8) <<< 8 >>> 8 = c >>> 8 := by
  ext k hk
  simpa using BitVec.lt_of_getLsbD

/-- The byte goes into the low eight bits only. -/
theorem xor_byte_shiftRight (c : Word) (b : Byte) : (c ^^^ b.setWidth 32) >>> 8 = c >>> 8 := by
  ext k hk
  simp

/-- The loop on any register value: the table entry of its low byte, and the rest shifted. -/
theorem crcEight_eq_table (c : Word) : crcEight c = crcTable (c.setWidth 8) ^^^ (c >>> 8) := by
  have hhigh : crcEight ((c >>> 8) <<< 8) = c >>> 8 := by
    rw [crcEight_low_zero fun k hk => by simp [hk], high_shiftRight]
  calc crcEight c
      = crcEight ((c.setWidth 8).setWidth 32 ^^^ (c >>> 8) <<< 8) := by rw [lowByte_xor_high]
    _ = crcTable (c.setWidth 8) ^^^ (c >>> 8) := by rw [crcEight_xor, hhigh, crcTable]

theorem crcByte_eq_table (c : Word) (b : Byte) :
    crcByte c b = crcTable ((c ^^^ b.setWidth 32).setWidth 8) ^^^ (c >>> 8) := by
  rw [crcByte, crcEight_eq_table, xor_byte_shiftRight]

/-- Settles O49: the loop is linear, runs on the low byte alone, and only shifts the rest. -/
theorem crcTableFormIsEquivalent : Obligations.CrcTableFormIsEquivalent :=
  ⟨crcByte_eq_table, by decide, by decide, by decide, by decide, by decide, by decide⟩

/-! ### The commands (R143-R145) -/

theorem passes_crcInit {s : State} : Passes .crcInit s ↔ s.chkOpen = false := by
  simp [Passes, badStateIf, badArgIf, badLenIf]

theorem passes_crcFeed {n : Nat} {s : State} : Passes (.crcFeed n) s ↔ s.chkOpen = false := by
  simp [Passes, badStateIf, badArgIf, badLenIf]

theorem passes_crcPut {s : State} : Passes .crcPut s ↔ s.chkOpen = false ∧ s.zOpen = false := by
  simp [Passes, badStateIf, badArgIf, badLenIf]

/-- A command that passes its checks and finds its bytes has its effect, as one update of the state. -/
theorem exec_effectOf {i : Instr} {s : State} (he : s.err = false) (hp : Passes i s)
    (hn : needBytes i s ≤ s.inq.length) : exec i s = .next (effectOf i s) := by
  rw [exec_performs he hp hn, performOf_eq_effectOf hp]

theorem exec_crcInit {s : State} (he : s.err = false) (hc : s.chkOpen = false) :
    exec .crcInit s = .next { s with crc := crcOnes } :=
  exec_effectOf he (passes_crcInit.mpr hc) (Nat.zero_le _)

theorem exec_crcFeed {n : Nat} {s : State} (he : s.err = false) (hc : s.chkOpen = false) (hn : n ≤ s.inq.length) :
    exec (.crcFeed n) s = .next { s with inq := s.inq.drop n, crc := (s.inq.take n).foldl crcByte s.crc } :=
  exec_effectOf he (passes_crcFeed.mpr hc) hn

theorem exec_crcPut {s : State} (he : s.err = false) (hc : s.chkOpen = false) (hz : s.zOpen = false) :
    exec .crcPut s = .next { s with outq := s.outq ++ be32 (crcOut s.crc) } :=
  exec_effectOf he (passes_crcPut.mpr ⟨hc, hz⟩) (Nat.zero_le _)

/-- CRC_VALUE (10_state.md R35). -/
theorem register_crcValue (s : State) : s.register 1#3 = crcOut s.crc := rfl

/-- Settles O25: CRC_INIT's one check is on the open chunk, and the value it sets is the mask of the final XOR. -/
theorem crcInitStartsANewCrc : Obligations.CrcInitStartsANewCrc :=
  ⟨rfl, nonzeroReservedImmRaisesBadRsvd .crcInit (.inl rfl), fun _ he =>
    ⟨exec_badState (i := .crcInit) he, fun hc => ⟨exec_crcInit he hc, (register_crcValue _).trans BitVec.xor_self⟩⟩⟩

/-- Settles O26: CRC_FEED's one check is on the open chunk, and its effect touches the input and the register only. -/
theorem crcFeedFoldsItsBytes : Obligations.CrcFeedFoldsItsBytes := by
  refine ⟨fun n hn => ?_, fun n s he => ⟨exec_badState (i := .crcFeed n) he, exec_crcFeed he⟩⟩
  rw [encode_no_args (i := .crcFeed n) rfl hn]
  simp [Instr.opcode, Opcode.code, Instr.imm]

/-- Settles O27: CRC_PUT's one check is on the open chunk and stream, and its effect is on the output only. -/
theorem crcPutEmitsTheCrc : Obligations.CrcPutEmitsTheCrc :=
  ⟨rfl, nonzeroReservedImmRaisesBadRsvd .crcPut (.inl rfl), fun _ he =>
    ⟨exec_badState (i := .crcPut) he, exec_crcPut he⟩⟩

/-! ### The unit computes `crc32` (R142) -/

/-- Settles O47: CRC_INIT starts the fold of `crc32`, CRC_FEED runs it on `d`, and CRC_VALUE inverts it. -/
theorem crcUnitComputesCrc32 : Obligations.CrcUnitComputesCrc32 := by
  refine ⟨fun d rest s he hc hin => ?_, fun _ => rfl, by decide, by decide +kernel⟩
  have hinit := exec_crcInit he hc
  have hfeed := exec_crcFeed (n := d.length) (s := { s with crc := crcOnes }) he hc (by simp [hin])
  refine ⟨_, execAll_pair hinit hfeed, ?_, ?_, rfl⟩
  · simp [register_crcValue, hin, crcOut, crc32]
  · simp [hin]

end Sys2Proof.Machine
end

section
/-! ## Adler-32 (42_adler32.md) -/

namespace Sys2Proof.Machine

/-! ### ADLER_VALUE (R36, R160) -/

/-- ADLER_VALUE (10_state.md R36). -/
theorem register_adlerValue (s : State) : s.register 2#3 = adlerOut s.adlA s.adlB := rfl

/-- The sums of ADL_INIT read as `adler32` of the empty sequence (R160). -/
theorem adlerOut_initial : adlerOut 1#16 0#16 = 1#32 := by decide

theorem toNat_adlerOut (a b : BitVec 16) : (adlerOut a b).toNat = b.toNat * 65536 + a.toNat := by
  obtain ⟨ha, hb⟩ := adlerOut_halves a b
  have hlow : (adlerOut a b).toNat % 65536 = a.toNat := by
    simpa using congrArg BitVec.toNat ha
  have hhigh : (adlerOut a b).toNat / 65536 % 65536 = b.toNat := by
    simpa [Nat.shiftRight_eq_div_pow] using congrArg BitVec.toNat hb
  omega

/-- A field of a field is a field. -/
theorem extractLsb'_extractLsb' {w base start len len' : Nat} (v : BitVec w) (h : start + len ≤ len') :
    (v.extractLsb' base len').extractLsb' start len = v.extractLsb' (base + start) len := by
  ext k hk
  have hin : start + k < len' := by omega
  simp [hin, Nat.add_assoc]

/-- ADL_PUT's four bytes (R165): `b` then `a`, high bytes first. -/
theorem be32_adlerOut (a b : BitVec 16) : be32 (adlerOut a b) =
    [b.extractLsb' 8 8, b.extractLsb' 0 8, a.extractLsb' 8 8, a.extractLsb' 0 8] := by
  obtain ⟨ha, hb⟩ := adlerOut_halves a b
  generalize adlerOut a b = v at ha hb
  subst ha hb
  simp [be32, extractLsb'_extractLsb']

/-! ### The byte update over exact numbers (R160, R161) -/

/-- R160's update of the two sums, as numbers. -/
def adlByteExact (sums : Nat × Nat) (x : Byte) : Nat × Nat :=
  ((sums.1 + x.toNat) % 65521, (sums.2 + (sums.1 + x.toNat) % 65521) % 65521)

/-- The two 16-bit sums as numbers. -/
def sumsToNat (sums : BitVec 16 × BitVec 16) : Nat × Nat := (sums.1.toNat, sums.2.toNat)

/-- A sum is reduced before it is stored, so 16 bits hold it. -/
theorem sumsToNat_adlByte (sums : BitVec 16 × BitVec 16) (x : Byte) :
    sumsToNat (adlByte sums x) = adlByteExact (sumsToNat sums) x := by
  have hfits (m : Nat) : (BitVec.ofNat 16 (m % 65521)).toNat = m % 65521 := by
    rw [BitVec.toNat_ofNat]
    omega
  simp only [sumsToNat, adlByte, adlerMod, adlByteExact, hfits]

theorem sumsToNat_foldl_adlByte (d : List Byte) (sums : BitVec 16 × BitVec 16) :
    sumsToNat (d.foldl adlByte sums) = d.foldl adlByteExact (sumsToNat sums) :=
  (List.foldl_hom sumsToNat fun sums x => (sumsToNat_adlByte sums x).symm).symm

theorem toNat_adler32 (d : List Byte) :
    (adler32 d).toNat = (d.foldl adlByteExact (1, 0)).2 * 65536 + (d.foldl adlByteExact (1, 0)).1 := by
  have hsums : d.foldl adlByteExact (1, 0) = sumsToNat (d.foldl adlByte (1#16, 0#16)) :=
    (sumsToNat_foldl_adlByte d (1#16, 0#16)).symm
  rw [hsums]
  exact toNat_adlerOut ..

/-! ### The commands (R163-R165) -/

theorem passes_adlInit {s : State} : Passes .adlInit s ↔ s.zOpen = false := by
  simp [Passes, badStateIf, badArgIf, badLenIf]

theorem passes_adlFeed {n : Nat} {s : State} : Passes (.adlFeed n) s ↔ s.zOpen = false := by
  simp [Passes, badStateIf, badArgIf, badLenIf]

theorem passes_adlPut {s : State} : Passes .adlPut s ↔ s.chkOpen = false ∧ s.zOpen = false := by
  simp [Passes, badStateIf, badArgIf, badLenIf]

theorem exec_adlInit {s : State} (he : s.err = false) (hz : s.zOpen = false) :
    exec .adlInit s = .next { s with adlA := 1#16, adlB := 0#16 } :=
  exec_effectOf he (passes_adlInit.mpr hz) (Nat.zero_le _)

theorem exec_adlFeed {n : Nat} {s : State} (he : s.err = false) (hz : s.zOpen = false) (hn : n ≤ s.inq.length) :
    exec (.adlFeed n) s = .next { s with
      inq := s.inq.drop n
      adlA := ((s.inq.take n).foldl adlByte (s.adlA, s.adlB)).1
      adlB := ((s.inq.take n).foldl adlByte (s.adlA, s.adlB)).2 } :=
  exec_effectOf he (passes_adlFeed.mpr hz) hn

theorem exec_adlPut {s : State} (he : s.err = false) (hc : s.chkOpen = false) (hz : s.zOpen = false) :
    exec .adlPut s = .next { s with outq := s.outq ++ be32 (adlerOut s.adlA s.adlB) } :=
  exec_effectOf he (passes_adlPut.mpr ⟨hc, hz⟩) (Nat.zero_le _)

/-- Settles O28: ADL_INIT's one check is on the open stream, and the sums it sets read as 1. -/
theorem adlInitStartsNewSums : Obligations.AdlInitStartsNewSums :=
  ⟨rfl, nonzeroReservedImmRaisesBadRsvd .adlInit (.inl rfl), fun _ he =>
    ⟨exec_badState (i := .adlInit) he, fun hz => ⟨exec_adlInit he hz, (register_adlerValue _).trans adlerOut_initial⟩⟩⟩

/-- Settles O29: ADL_FEED's one check is on the open stream, and its effect touches the input and the sums only. -/
theorem adlFeedFoldsItsBytes : Obligations.AdlFeedFoldsItsBytes := by
  refine ⟨fun n hn => ?_, fun a b x _ _ => ?_, fun n s he => ⟨exec_badState (i := .adlFeed n) he, exec_adlFeed he⟩⟩
  · rw [encode_no_args (i := .adlFeed n) rfl hn]
    simp [Instr.opcode, Opcode.code, Instr.imm]
  · exact Prod.ext_iff.mp (sumsToNat_adlByte (a, b) x)

/-- Settles O30: ADL_PUT's one check is on the open chunk and stream, and its effect is on the output only. -/
theorem adlPutEmitsTheSums : Obligations.AdlPutEmitsTheSums := by
  refine ⟨rfl, nonzeroReservedImmRaisesBadRsvd .adlPut (.inl rfl), fun s he =>
    ⟨exec_badState (i := .adlPut) he, fun hc hz => ?_⟩⟩
  rw [exec_adlPut he hc hz, be32_adlerOut]

/-! ### The unit computes `adler32` (R160, R162) -/

/-- Settles O48: ADL_INIT starts the fold of `adler32`, ADL_FEED runs it on `d`, and ADLER_VALUE joins the two sums. -/
theorem adlerUnitComputesAdler32 : Obligations.AdlerUnitComputesAdler32 := by
  refine ⟨fun d rest s he hz hin => ?_, toNat_adler32, adlerOut_initial, by decide⟩
  have hinit := exec_adlInit he hz
  have hfeed := exec_adlFeed (n := d.length) (s := { s with adlA := 1#16, adlB := 0#16 }) he hz (by simp [hin])
  refine ⟨_, execAll_pair hinit hfeed, ?_, ?_, rfl⟩
  · simp [register_adlerValue, hin, adler32]
  · simp [hin]

end Sys2Proof.Machine
end

section
/-! ## The zlib framer (43_zlib_framer.md) -/

namespace Sys2Proof.Machine

/-! ### The commands (R187-R189) -/

/-- A command in the right state whose length does not fit fails with BAD_LEN (60_exceptions.md R284). -/
theorem exec_badLen {i : Instr} {s : State} (he : s.err = false) (hs : ¬badStateIf i s) (ha : ¬badArgIf i)
    (hl : badLenIf i s) : FailsWith i s .badLen :=
  exec_fails he ((check_some i s _).mpr (.inr (.inr ⟨hs, ha, hl, rfl⟩)))

section
variable {s : State} (he : s.err = false)
include he

theorem exec_zlbBegin {N : Word} (hz : s.zOpen = false) (hfit : s.chkOpen = true → zsize N.toNat ≤ s.chkRem.toNat) :
    exec (.zlbBegin N) s = .next ((s.openStream N).emitted zlibHeader) :=
  exec_effectOf he (passes_zlbBegin.mpr ⟨hz, hfit⟩) (Nat.zero_le _)

theorem exec_zlbData {n : Nat} (hz : s.zOpen = true) (hn : n ≤ s.zRem.toNat) (hin : n ≤ s.inq.length) :
    exec (.zlbData n) s = .next ((s.inDrop n).framed (s.inBytes n)) :=
  exec_effectOf he (passes_zlbData.mpr ⟨hz, hn⟩) hin

theorem exec_zlbEnd (hz : s.zOpen = true) (hr : s.zRem = 0#32) :
    exec .zlbEnd s = .next (s.closeStream.emitted s.streamTail) :=
  exec_effectOf he (passes_zlbEnd.mpr ⟨hz, hr⟩) (Nat.zero_le _)

end

/-- Settles O31: the header goes through the chunk stage, which does not read the stream just opened. -/
theorem zlbBeginOpensAStream : Obligations.ZlbBeginOpensAStream := by
  have hword0 : makeWord0 0x30#8 0#24 = 0x30000000#32 := by decide
  refine ⟨fun N => congrArg (· :: [N]) hword0, nonzeroReservedImmRaisesBadRsvd .zlbBegin (.inr (.inr rfl)),
    fun N s he => ⟨exec_badState (i := .zlbBegin N) he, fun hz hc hlen => ?_, fun hz hc => ?_, fun hz hc hfit => ?_⟩⟩
  · exact exec_badLen he (by simp [badStateIf, hz]) id ⟨hc, hlen⟩
  · rw [exec_zlbBegin he hz fun hc' => absurd (hc.symm.trans hc') (by decide),
      State.emitted_closed (s.openStream N) _ hc]
    rfl
  · rw [exec_zlbBegin he hz fun _ => hfit, State.emitted_open (s.openStream N) _ hc]
    rfl

/-- Settles O32: the bytes are there, so as many are framed as the command counts. -/
theorem zlbDataFramesItsBytes : Obligations.ZlbDataFramesItsBytes := by
  refine ⟨fun n hn => ?_, fun _ _ => rfl, fun n s he =>
    ⟨exec_badState (i := .zlbData n) he, fun hz hlen => ?_, fun hz hn hin => ?_⟩⟩
  · rw [encode_no_args (i := .zlbData n) rfl hn]
    simp [Instr.opcode, Opcode.code, Instr.imm]
  · exact exec_badLen he (by simp [badStateIf, hz]) id hlen
  · have hlen : (s.inq.take n).length = n := List.length_take_of_le hin
    rw [exec_zlbData he hz hn hin, State.framed, State.inBytes, hlen]
    rfl

/-- Settles O33: the tail is the bytes `e`, and goes through the chunk stage. -/
theorem zlbEndClosesTheStream : Obligations.ZlbEndClosesTheStream := by
  refine ⟨rfl, nonzeroReservedImmRaisesBadRsvd .zlbEnd (.inl rfl), fun s e he htail => ?_⟩
  have htail : s.streamTail = e := by rw [htail, State.streamTail, be32_adlerOut, emptyBlock]
  refine ⟨exec_badState (i := .zlbEnd) he, fun hz hr => ?_, fun hz hr hc => ?_, fun hz hr hc => ?_⟩
  · exact exec_badLen he (by simp [badStateIf, hz]) id hr
  · rw [exec_zlbEnd he hz hr, htail, State.emitted_closed s.closeStream e hc]
    rfl
  · rw [exec_zlbEnd he hz hr, htail, State.emitted_open s.closeStream e hc]
    rfl

/-! ### The stored blocks of a byte sequence (R182, R183) -/

/-- The stored blocks of `d` with their headers, in order (R182). -/
def storedBlocks (d : List Byte) : List Byte := (List.range (blockCount d.length)).flatMap (storedBlock d)

theorem zlibWrap_eq (d : List Byte) : zlibWrap d = zlibHeader ++ storedBlocks d ++ be32 (adler32 d) := rfl

/-- Induction over the blocks of a byte sequence: one block is enough, or there are bytes behind the first one. -/
theorem storedBlocks_induction {P : List Byte → Prop} (last : ∀ d, d.length ≤ storedMax → P d)
    (more : ∀ d, storedMax < d.length → P (d.drop storedMax) → P d) (d : List Byte) : P d := by
  induction hn : d.length using Nat.strong_induction_on generalizing d with
  | h n ih =>
    rcases Nat.lt_or_ge storedMax d.length with hlong | hshort
    · refine more d hlong (ih _ ?_ _ rfl)
      rw [List.length_drop]
      unfold storedMax at hlong ⊢
      omega
    · exact last d hshort

theorem blockCount_pos (n : Nat) : 0 < blockCount n := Nat.le_max_left ..

theorem blockCount_last {n : Nat} (h : n ≤ storedMax) : blockCount n = 1 := by
  unfold blockCount storedMax at *
  omega

theorem blockCount_more {n : Nat} (h : storedMax < n) : blockCount n = blockCount (n - storedMax) + 1 := by
  unfold blockCount storedMax at *
  omega

/-- The later blocks of `d` are the blocks of the bytes behind its first block. -/
theorem storedBlock_succ {d : List Byte} (h : storedMax < d.length) (k : Nat) :
    storedBlock d (k + 1) = storedBlock (d.drop storedMax) k := by
  have hpayload : blockPayload d (k + 1) = blockPayload (d.drop storedMax) k := by
    rw [blockPayload, blockPayload, List.drop_drop, Nat.mul_succ, Nat.add_comm]
  simp only [storedBlock, hpayload, blockCount_more h, List.length_drop, Nat.add_right_cancel_iff]

theorem storedBlocks_last {d : List Byte} (h : d.length ≤ storedMax) :
    storedBlocks d = storedHeader true (BitVec.ofNat 16 d.length) ++ d := by
  simp [storedBlocks, blockCount_last h, storedBlock, blockPayload, List.take_of_length_le h]

theorem storedBlocks_more {d : List Byte} (h : storedMax < d.length) :
    storedBlocks d =
      storedHeader false (BitVec.ofNat 16 storedMax) ++ d.take storedMax ++ storedBlocks (d.drop storedMax) := by
  have hcount : blockCount d.length = blockCount (d.drop storedMax).length + 1 := by
    rw [List.length_drop, blockCount_more h]
  have hfirst : storedBlock d 0 = storedHeader false (BitVec.ofNat 16 storedMax) ++ d.take storedMax := by
    have hfinal : ¬0 + 1 = blockCount d.length := by have := blockCount_pos (d.drop storedMax).length; omega
    simp only [storedBlock, blockPayload, hfinal, decide_false, Nat.mul_zero, List.drop_zero,
      List.length_take_of_le h.le]
  simp only [storedBlocks, hcount, List.range_succ_eq_map, List.flatMap_cons, List.flatMap_map, hfirst,
    storedBlock_succ h]

theorem storedHeader_length (final : Bool) (len : BitVec 16) : (storedHeader final len).length = 5 := rfl

theorem storedBlocks_length (d : List Byte) : (storedBlocks d).length = 5 * blockCount d.length + d.length := by
  induction d using storedBlocks_induction with
  | last d h => simp [storedBlocks_last h, blockCount_last h, storedHeader_length]
  | more d h ih =>
    simp only [storedBlocks_more h, blockCount_more h, List.length_append, storedHeader_length,
      List.length_take_of_le h.le, ih, List.length_drop]
    omega

theorem zlibWrap_length (d : List Byte) : (zlibWrap d).length = zsize d.length := by
  simp only [zlibWrap_eq, List.length_append, storedBlocks_length, zlibHeader, be32, zsize, List.length_cons,
    List.length_nil]
  omega

/-- Settles O50: a header of five bytes for each block, beside the payload, the stream's header and its trailer. -/
theorem streamSize : Obligations.StreamSize :=
  ⟨fun _ => rfl, rfl, rfl, rfl, rfl, rfl, zlibWrap_length⟩

/-! ### The framer's stored blocks (R67, R182) -/

/-- The rest of a block in progress goes out as it is. -/
theorem framedBytes_block (rem : Nat) (p q : List Byte) :
    framedBytes rem p.length (p ++ q) = p ++ framedBytes (rem - p.length) 0 q := by
  induction p generalizing rem with
  | nil => rfl
  | cons x xs ih =>
    have hrem : rem - 1 - xs.length = rem - (xs.length + 1) := by omega
    rw [List.cons_append, List.length_cons, framedBytes_inside rem (Nat.add_one_ne_zero _), Nat.add_sub_cancel, ih,
      hrem]
    rfl

/-- A block with its header, when its payload is what R182 gives it. -/
theorem framedBytes_new_block {rem : Nat} {p : List Byte} (hne : p ≠ []) (hp : p.length = min rem storedMax)
    (q : List Byte) :
    framedBytes rem 0 (p ++ q) =
      storedHeader (decide (rem ≤ storedMax)) (BitVec.ofNat 16 p.length) ++ p ++ framedBytes (rem - p.length) 0 q := by
  cases p with
  | nil => exact absurd rfl hne
  | cons x xs =>
    have hrem : rem - 1 - xs.length = rem - (xs.length + 1) := by omega
    rw [List.cons_append, framedBytes_start, ← hp, List.length_cons, Nat.add_sub_cancel, framedBytes_block, hrem]
    simp

/-- Fed with all its payload, the framer emits the blocks of R182; the empty block, which no byte starts, is missing. -/
theorem framedBytes_eq_storedBlocks (d : List Byte) :
    framedBytes d.length 0 d ++ (if d = [] then emptyBlock else []) = storedBlocks d := by
  induction d using storedBlocks_induction with
  | last d h =>
    by_cases hd : d = []
    · subst hd
      decide
    · have hblock := framedBytes_new_block (rem := d.length) hd (by omega) []
      rw [List.append_nil] at hblock
      rw [hblock, storedBlocks_last h]
      simp [framedBytes, h, hd]
  | more d h ih =>
    have hlen : (d.take storedMax).length = storedMax := List.length_take_of_le h.le
    have hne : d ≠ [] := List.ne_nil_of_length_pos (Nat.zero_lt_of_lt h)
    have hrest : d.drop storedMax ≠ [] := List.ne_nil_of_length_pos (by rw [List.length_drop]; omega)
    have htake : d.take storedMax ≠ [] := List.ne_nil_of_length_pos (by rw [hlen]; decide)
    have hblock := framedBytes_new_block (rem := d.length) htake (by omega) (d.drop storedMax)
    rw [List.take_append_drop, hlen, decide_eq_false (Nat.not_le.mpr h), ← List.length_drop] at hblock
    rw [if_neg hrest, List.append_nil] at ih
    rw [if_neg hne, List.append_nil, hblock, ih, storedBlocks_more h]

/-! ### Commands one after another (40_control.md R120) -/

theorem execAll_cons {i : Instr} {is : List Instr} {s t : State} (h : exec i s = .next t) :
    execAll (i :: is) s = execAll is t := by
  simp only [execAll, h]

theorem execAll_append {is js : List Instr} {s t : State} (h : execAll is s = .next t) :
    execAll (is ++ js) s = execAll js t := by
  induction is generalizing s with
  | nil => cases h; rfl
  | cons i is ih =>
    obtain ⟨u, hu⟩ := exec_answers i s
    rw [execAll_cons hu] at h
    rw [List.cons_append, execAll_cons hu, ih h]

/-- A data command that can be split can be given in any pieces (30_encoding.md R101). -/
theorem execAll_pieces {c : Nat → Instr} (hsrst : ∀ k, c k ≠ .srst) (hzero : ∀ s, effectOf (c 0) s = s)
    (hsplit : ∀ m n s, Passes (c (m + n)) s → needBytes (c (m + n)) s ≤ s.inq.length → Splits c m n s)
    (counts : List Nat) {s : State} (he : s.err = false) (hp : Passes (c counts.sum) s)
    (hn : needBytes (c counts.sum) s ≤ s.inq.length) :
    execAll (counts.map c) s = .next (effectOf (c counts.sum) s) := by
  induction counts generalizing s with
  | nil => exact congrArg _ (hzero s).symm
  | cons k ks ih =>
    rw [List.sum_cons] at hp hn ⊢
    have h := hsplit k ks.sum s hp hn
    have hneed := h.need
    have hframe := performOf_frame (c k) s
    rw [performOf_eq_effectOf h.first] at hframe
    have herr : (effectOf (c k) s).err = false := (hframe.err (hsrst k)).trans he
    have hrest : needBytes (c ks.sum) (effectOf (c k) s) ≤ (effectOf (c k) s).inq.length := by
      rw [hframe.inq, List.length_drop]
      omega
    rw [List.map_cons, execAll_cons (exec_effectOf he h.first (by omega)), ih herr h.second hrest, h.effect]

/-! ### The framer emits `zlib_wrap` (R185, R190) -/

/-- The stream that ZLB_BEGIN opens for the payload `d`, once all of `d` has gone through `FeedZ`. -/
def State.streamed (d : List Byte) (s : State) : State :=
  (effectOf (.zlbBegin (BitVec.ofNat 32 d.length)) s).framed d

/-- The state after ZLB_END of that stream. -/
def State.wrapped (d : List Byte) (s : State) : State := effectOf .zlbEnd (s.streamed d)

theorem State.streamed_zRem (d : List Byte) (s : State) : (s.streamed d).zRem = 0#32 :=
  BitVec.sub_self (BitVec.ofNat 32 d.length)

theorem State.streamTail_streamed (d : List Byte) (s : State) :
    (s.streamed d).streamTail = (if d = [] then emptyBlock else []) ++ be32 (adler32 d) := by
  have hhdr : (s.streamed d).zHdr = decide (0 < d.length) := rfl
  rw [State.streamTail, hhdr]
  cases d <;> rfl

theorem State.streamed_outq {d : List Byte} (hlt : d.length < 4294967296) (s : State) :
    (s.streamed d).outq = s.outq ++ zlibHeader ++ framedBytes d.length 0 d := by
  have hrem : (BitVec.ofNat 32 d.length).toNat = d.length := Nat.mod_eq_of_lt hlt
  change s.outq ++ zlibHeader ++ framedBytes (BitVec.ofNat 32 d.length).toNat 0 d = _
  rw [hrem]

/-- Header, blocks and trailer are `zlib_wrap(d)`. -/
theorem State.wrapped_outq {d : List Byte} (hlt : d.length < 4294967296) (s : State) :
    (s.wrapped d).outq = s.outq ++ zlibWrap d := by
  change (s.streamed d).outq ++ (s.streamed d).streamTail = _
  rw [State.streamed_outq hlt, State.streamTail_streamed, zlibWrap_eq, ← framedBytes_eq_storedBlocks]
  simp only [List.append_assoc]

theorem effectOf_zlbData_zero (s : State) : effectOf (.zlbData 0) s = s :=
  (State.feedAll_eq s [] (Nat.zero_le _)).symm

theorem execAll_zlbData {counts : List Nat} {s : State} (he : s.err = false) (hz : s.zOpen = true)
    (hr : counts.sum ≤ s.zRem.toNat) (hin : counts.sum ≤ s.inq.length) :
    execAll (counts.map .zlbData) s = .next (effectOf (.zlbData counts.sum) s) :=
  execAll_pieces (c := .zlbData) nofun effectOf_zlbData_zero (fun _ _ _ hp _ => splits_zlbData hp) counts he
    (passes_zlbData.mpr ⟨hz, hr⟩) hin

/-- The payload at the front of the input is what is framed, and it is consumed. -/
theorem effectOf_zlbData_payload {d rest : List Byte} {s : State} (hin : s.inq = d ++ rest) :
    effectOf (.zlbData d.length) (effectOf (.zlbBegin (BitVec.ofNat 32 d.length)) s) =
      ({ s with inq := rest } : State).streamed d := by
  simp only [effectOf, State.inDrop, State.inBytes, State.emitted_inq, State.openStream, hin, List.take_left,
    List.drop_left]
  rfl

/-- ZLB_DATA commands whose counts sum to `|d|` between ZLB_BEGIN and ZLB_END, also inside a chunk with room for the
stream. -/
theorem execAll_stream {d rest : List Byte} {counts : List Nat} {s : State} (hlt : d.length < 4294967296)
    (hsum : counts.sum = d.length) (he : s.err = false) (hz : s.zOpen = false)
    (hfit : s.chkOpen = true → zsize d.length ≤ s.chkRem.toNat) (hin : s.inq = d ++ rest) :
    execAll (.zlbBegin (BitVec.ofNat 32 d.length) :: counts.map .zlbData ++ [.zlbEnd]) s =
      .next (({ s with inq := rest } : State).wrapped d) := by
  have hN : (BitVec.ofNat 32 d.length).toNat = d.length := Nat.mod_eq_of_lt hlt
  have hbegin := exec_zlbBegin (N := BitVec.ofNat 32 d.length) he hz (by rwa [hN])
  have hdata := execAll_zlbData (counts := counts) (s := effectOf (.zlbBegin (BitVec.ofNat 32 d.length)) s) he rfl
    (hsum.trans hN.symm).le (by simp [effectOf, State.openStream, hsum, hin])
  rw [hsum, effectOf_zlbData_payload hin] at hdata
  have hend := exec_zlbEnd (s := ({ s with inq := rest } : State).streamed d) he rfl (State.streamed_zRem _ _)
  calc execAll (.zlbBegin (BitVec.ofNat 32 d.length) :: counts.map .zlbData ++ [.zlbEnd]) s
      = execAll (counts.map .zlbData ++ [.zlbEnd]) (effectOf (.zlbBegin (BitVec.ofNat 32 d.length)) s) :=
        execAll_cons hbegin
    _ = execAll [.zlbEnd] (({ s with inq := rest } : State).streamed d) := execAll_append hdata
    _ = .next (({ s with inq := rest } : State).wrapped d) := execAll_cons hend

/-- Settles O52: the pieces of `|d|` sum to it, and the stream they are framed into is `zlib_wrap(d)`. -/
theorem framerEmitsZlibWrap : Obligations.FramerEmitsZlibWrap := by
  intro d rest s hlt he hc hz hin
  have hfit (hc' : s.chkOpen = true) : zsize d.length ≤ s.chkRem.toNat := absurd (hc.symm.trans hc') (by decide)
  exact ⟨_, _, (expand_zlib d.length).trans (if_pos hlt), execAll_stream hlt (pieces_sum d.length) he hz hfit hin,
    State.wrapped_outq hlt _, rfl, he, rfl, rfl⟩

theorem zlibWrap_nil : zlibWrap [] =
    [0x78#8, 0x01#8, 0x01#8, 0x00#8, 0x00#8, 0xFF#8, 0xFF#8, 0x00#8, 0x00#8, 0x00#8, 0x01#8] := by decide

/-- Settles O51: it is the stream of no payload bytes, fed by no ZLB_DATA. -/
theorem emptyStreamBytes : Obligations.EmptyStreamBytes := by
  intro s he hc hz
  have hfit (hc' : s.chkOpen = true) : zsize 0 ≤ s.chkRem.toNat := absurd (hc.symm.trans hc') (by decide)
  refine ⟨_, execAll_stream (d := []) (counts := []) (by decide) rfl he hz hfit rfl, rfl, ?_⟩
  rw [← zlibWrap_nil]
  exact State.wrapped_outq (d := []) (by decide) _

end Sys2Proof.Machine
end

section
/-! ## The scanline filter (44_scanline_filter.md) -/

namespace Sys2Proof.Machine

/-! ### FLT_CFG (R213) -/

/-- A command in the right state with a bad argument fails with BAD_ARG (60_exceptions.md R284). -/
theorem exec_badArg {i : Instr} {s : State} (he : s.err = false) (hs : ¬badStateIf i s) (ha : badArgIf i) :
    FailsWith i s .badArg :=
  exec_fails he ((check_some i s _).mpr (.inr (.inl ⟨hs, ha, rfl⟩)))

theorem passes_fltCfg {ch : Nat} {W : Word} {s : State} :
    Passes (.fltCfg ch W) s ↔ (ch = 3 ∨ ch = 4) ∧ W ≠ 0#32 := by
  simp only [Passes, badStateIf, badArgIf, badLenIf]
  tauto

theorem exec_fltCfg {ch : Nat} {W : Word} {s : State} (he : s.err = false) (hch : ch = 3 ∨ ch = 4) (hW : W ≠ 0#32) :
    exec (.fltCfg ch W) s = .next { s with fltCh4 := decide (ch = 4), fltW := W } :=
  exec_effectOf he (passes_fltCfg.mpr ⟨hch, hW⟩) (Nat.zero_le _)

/-- Settles O37: FLT_CFG's one check is on its operands, and its effect is on the filter's geometry only. -/
theorem fltCfgSetsTheGeometry : Obligations.FltCfgSetsTheGeometry := by
  refine ⟨fun ch W hch => ?_, fun ch W s he =>
    ⟨exec_badArg (i := .fltCfg ch W) he id, fun hch hW => ?_, fun hch hW => ?_⟩⟩
  · exact congrArg (· :: [W]) (makeWord0_ofNat 0x50#8 ch hch)
  · rw [exec_fltCfg he (.inl hch) hW, hch]
    rfl
  · rw [exec_fltCfg he (.inr hch) hW, hch]
    rfl

/-! ### The rows' bytes by their places in the raster (R210, R211) -/

/-- The R, G, B bytes of pixel `k` of a raster, in row-major order (R211). -/
def pixelRgb (ch4 : Bool) (raster : List Byte) (k : Nat) : List Byte :=
  [raster.getD (k * channels ch4) 0#8, raster.getD (k * channels ch4 + 1) 0#8, raster.getD (k * channels ch4 + 2) 0#8]

/-- The filtered row `row` of a raster (R210). -/
def scanline (ch4 : Bool) (W : Nat) (raster : List Byte) (row : Nat) : List Byte :=
  0x00#8 :: (List.range W).flatMap fun p => pixelRgb ch4 raster (row * W + p)

theorem filterScanlines_eq (ch4 : Bool) (W H : Nat) (raster : List Byte) :
    filterScanlines ch4 W H raster = (List.range H).flatMap (scanline ch4 W raster) := rfl

theorem pixelRgb_add (ch4 : Bool) (raster : List Byte) (n k : Nat) :
    pixelRgb ch4 raster (n + k) = pixelRgb ch4 (raster.drop (n * channels ch4)) k := by
  simp only [pixelRgb, List.getD_eq_getElem?_getD, List.getElem?_drop, Nat.add_mul, Nat.add_assoc]

theorem scanline_succ (ch4 : Bool) (W : Nat) (raster : List Byte) (row : Nat) :
    scanline ch4 W raster (row + 1) = scanline ch4 W (raster.drop (W * channels ch4)) row := by
  have hpixel (p : Nat) : (row + 1) * W + p = W + (row * W + p) := by rw [Nat.succ_mul]; omega
  simp only [scanline, hpixel, pixelRgb_add ch4 raster W]

/-- Of a whole pixel at the front, the filter keeps R, G and B (R211). -/
theorem rowRgb_pixel {ch4 : Bool} {bytes : List Byte} (h : channels ch4 ≤ bytes.length) (n : Nat) :
    rowRgb ch4 (bytes.take (channels ch4 + n)) =
      pixelRgb ch4 bytes 0 ++ rowRgb ch4 ((bytes.drop (channels ch4)).take n) := by
  cases ch4 with
  | true =>
    match bytes, h with
    | r :: g :: b :: a :: bytes, _ => simp [rowRgb, channels, Nat.add_comm 4 n, dropAlpha, pixelRgb]
  | false =>
    match bytes, h with
    | r :: g :: b :: bytes, _ => simp [rowRgb, channels, Nat.add_comm 3 n, pixelRgb]

theorem rowRgb_take {ch4 : Bool} {W : Nat} {bytes : List Byte} (h : W * channels ch4 ≤ bytes.length) :
    rowRgb ch4 (bytes.take (W * channels ch4)) = (List.range W).flatMap (pixelRgb ch4 bytes) := by
  induction W generalizing bytes with
  | zero => cases ch4 <;> simp [rowRgb, dropAlpha]
  | succ W ih =>
    rw [Nat.succ_mul, Nat.add_comm] at h ⊢
    have hrest : W * channels ch4 ≤ (bytes.drop (channels ch4)).length := by rw [List.length_drop]; omega
    have hpixel (k : Nat) : pixelRgb ch4 bytes (k + 1) = pixelRgb ch4 (bytes.drop (channels ch4)) k := by
      rw [Nat.add_comm, pixelRgb_add, Nat.one_mul]
    rw [rowRgb_pixel (by omega), ih hrest]
    simp only [List.range_succ_eq_map, List.flatMap_cons, List.flatMap_map, hpixel]

/-- Rows filtered in stream order are the rows of the raster (R210, R214). -/
theorem filterRows_eq_filterScanlines {ch4 : Bool} {W r : Nat} {bytes : List Byte}
    (h : r * (W * channels ch4) ≤ bytes.length) : filterRows ch4 W r bytes = filterScanlines ch4 W r bytes := by
  induction r generalizing bytes with
  | zero => rfl
  | succ r ih =>
    rw [Nat.succ_mul] at h
    have hrow : W * channels ch4 ≤ bytes.length := by omega
    have hrest : r * (W * channels ch4) ≤ (bytes.drop (W * channels ch4)).length := by rw [List.length_drop]; omega
    have hfirst : scanline ch4 W bytes 0 = 0x00#8 :: (List.range W).flatMap (pixelRgb ch4 bytes) := by
      simp only [scanline, Nat.zero_mul, Nat.zero_add]
    rw [filterRows, rowRgb_take hrow, ih hrest]
    simp only [filterScanlines_eq, List.range_succ_eq_map, List.flatMap_cons, List.flatMap_map, hfirst, scanline_succ]

theorem scanline_length (ch4 : Bool) (W : Nat) (raster : List Byte) (row : Nat) :
    (scanline ch4 W raster row).length = 1 + 3 * W := by
  simp [scanline, List.length_flatMap, pixelRgb, Nat.mul_comm, Nat.add_comm]

theorem filterScanlines_length (ch4 : Bool) (W H : Nat) (raster : List Byte) :
    (filterScanlines ch4 W H raster).length = filteredLength H W := by
  simp [filterScanlines_eq, List.length_flatMap, scanline_length, filteredLength]

/-- With their input there, the rows are those of the raster that it is. -/
theorem State.filteredRows_eq {r : Nat} {s : State} (hn : needBytes (.fltRows r) s ≤ s.inq.length) :
    s.filteredRows r = filterScanlines s.fltCh4 s.fltW.toNat r (s.inBytes (needBytes (.fltRows r) s)) :=
  filterRows_eq_filterScanlines (by
    rw [State.inBytes, List.length_take_of_le hn, needBytes, State.fltCh, Nat.mul_assoc])

theorem State.filteredRows_length {r : Nat} {s : State} (hn : needBytes (.fltRows r) s ≤ s.inq.length) :
    (s.filteredRows r).length = filteredLength r s.fltW.toNat := by
  rw [State.filteredRows_eq hn, filterScanlines_length]

/-! ### FLT_ROWS (R214) -/

theorem exec_fltRows {r : Nat} {s : State} (he : s.err = false) (hp : Passes (.fltRows r) s)
    (hn : needBytes (.fltRows r) s ≤ s.inq.length) :
    exec (.fltRows r) s = .next ((s.inDrop (needBytes (.fltRows r) s)).routed (s.filteredRows r)) :=
  exec_effectOf he hp hn

/-- Settles O38: the checks are on the geometry and on the length of the rows, and rows that are there have exactly that
length. -/
theorem fltRowsRoutesFilteredRows : Obligations.FltRowsRoutesFilteredRows := by
  refine ⟨fun r hr => ?_, ?_⟩
  · rw [encode_no_args (i := .fltRows r) rfl hr]
    simp [Instr.opcode, Opcode.code, Instr.imm]
  rintro r need m s p he rfl rfl rfl
  have hlen := s.filteredRows_length (r := r)
  refine ⟨exec_badState (i := .fltRows r) he, fun hw hz hm => ?_, fun hw hz hc hm => ?_, hlen,
    fun hw hn hz hc => ?_, fun hw hn hz hc hm => ?_, fun hw hn hz hm => ?_⟩
  · exact exec_badLen (i := .fltRows r) he hw id (.inl ⟨hz, hm⟩)
  · exact exec_badLen (i := .fltRows r) he hw id (.inr ⟨hz, hc, hm⟩)
  · have hp : Passes (.fltRows r) s := passes_fltRows.mpr ⟨hw, by simp [hz], by simp [hc]⟩
    rw [exec_fltRows he hp hn, State.routed_no_stream (s := s.inDrop _) _ hz, State.emitted_closed (s.inDrop _) _ hc]
    rfl
  · have hp : Passes (.fltRows r) s := passes_fltRows.mpr ⟨hw, by simp [hz], fun _ _ => hm⟩
    rw [exec_fltRows he hp hn, State.routed_no_stream (s := s.inDrop _) _ hz, State.emitted_open (s.inDrop _) _ hc,
      hlen hn]
    rfl
  · have hp : Passes (.fltRows r) s := passes_fltRows.mpr ⟨hw, fun _ => hm, by simp [hz]⟩
    rw [exec_fltRows he hp hn, State.routed_stream (s := s.inDrop _) _ hz, State.framed, hlen hn]
    rfl

/-! ### The filter emits `filter_scanlines` (R212) -/

theorem effectOf_fltRows_zero (s : State) : effectOf (.fltRows 0) s = s := by
  have hneed : needBytes (.fltRows 0) s = 0 := by simp [needBytes]
  rw [effectOf_fltRows, hneed]
  exact (State.routeAll_eq s [] fun _ => Nat.zero_le _).symm

/-- FLT_ROWS commands are one FLT_ROWS of all their rows, wherever the rows go. -/
theorem execAll_fltRows {counts : List Nat} {s : State} (he : s.err = false) (hp : Passes (.fltRows counts.sum) s)
    (hn : needBytes (.fltRows counts.sum) s ≤ s.inq.length) :
    execAll (counts.map .fltRows) s = .next (effectOf (.fltRows counts.sum) s) :=
  execAll_pieces (c := .fltRows) nofun effectOf_fltRows_zero (fun _ _ _ => splits_fltRows) counts he hp hn

/-- The raster at the front of the input is what is filtered, and it is consumed. -/
theorem effectOf_fltRows_raster {r : Nat} {raster rest : List Byte} {s : State}
    (hlen : raster.length = needBytes (.fltRows r) s) (hin : s.inq = raster ++ rest) :
    effectOf (.fltRows r) s =
      ({ s with inq := rest } : State).routed (filterScanlines s.fltCh4 s.fltW.toNat r raster) := by
  have hn : needBytes (.fltRows r) s ≤ s.inq.length := by simp [hin, hlen]
  rw [effectOf_fltRows, State.filteredRows_eq hn, State.inBytes, State.inDrop, ← hlen, hin, List.take_left,
    List.drop_left]

/-- The state FLT_CFG leaves for a raster of this geometry. -/
def State.configured (ch4 : Bool) (W : Word) (s : State) : State := { s with fltCh4 := ch4, fltW := W }

theorem exec_fltCfg_channels {ch4 : Bool} {W : Word} {s : State} (he : s.err = false) (hW : W ≠ 0#32) :
    exec (.fltCfg (channels ch4) W) s = .next (s.configured ch4 W) := by
  cases ch4 with
  | true => exact exec_fltCfg he (.inr rfl) hW
  | false => exact exec_fltCfg he (.inl rfl) hW

/-- Settles O53: the commands are one FLT_ROWS of all rows, and with nothing open its bytes are output. -/
theorem filterEmitsFilterScanlines : Obligations.FilterEmitsFilterScanlines := by
  intro ch4 W counts raster rest s hW he hc hz hlen hin
  have hp : Passes (.fltRows counts.sum) (s.configured ch4 W) :=
    passes_fltRows.mpr ⟨hW, by simp [State.configured, hz], by simp [State.configured, hc]⟩
  have hn : needBytes (.fltRows counts.sum) (s.configured ch4 W) ≤ (s.configured ch4 W).inq.length := by
    change counts.sum * W.toNat * channels ch4 ≤ s.inq.length
    rw [hin, List.length_append, hlen, channels]
    exact Nat.le_add_right ..
  have hrows := execAll_fltRows (s := s.configured ch4 W) he hp hn
  rw [effectOf_fltRows_raster (s := s.configured ch4 W) hlen hin,
    State.routed_no_stream (s := { s.configured ch4 W with inq := rest }) _ hz] at hrows
  exact ⟨_, (execAll_cons (exec_fltCfg_channels he hW)).trans hrows, rfl, rfl, he, rfl⟩

end Sys2Proof.Machine
end

section
/-! ## The chunk serializer (45_chunk_serializer.md) -/

namespace Sys2Proof.Machine

/-! ### The commands (R234-R236) -/

section
variable {s : State} (he : s.err = false)
include he

theorem exec_chkBegin {L T : Word} (hc : s.chkOpen = false) (hz : s.zOpen = false)
    (hT : ¬badArgIf (.chkBegin L T)) :
    exec (.chkBegin L T) s = .next { s with
      outq := s.outq ++ be32 L ++ be32 T, crc := (be32 T).foldl crcByte crcOnes, chkRem := L, chkOpen := true } :=
  exec_effectOf he (passes_chkBegin.mpr ⟨hc, hz, hT⟩) (Nat.zero_le _)

theorem exec_chkData {n : Nat} (hc : s.chkOpen = true) (hz : s.zOpen = false) (hn : n ≤ s.chkRem.toNat)
    (hin : n ≤ s.inq.length) : exec (.chkData n) s = .next ((s.inDrop n).emitted (s.inBytes n)) :=
  exec_effectOf he (passes_chkData.mpr ⟨hc, hz, hn⟩) hin

theorem exec_chkEnd (hc : s.chkOpen = true) (hz : s.zOpen = false) (hr : s.chkRem = 0#32) :
    exec .chkEnd s = .next { s with outq := s.outq ++ be32 (crcOut s.crc), chkOpen := false } :=
  exec_effectOf he (passes_chkEnd.mpr ⟨hc, hz, hr⟩) (Nat.zero_le _)

end

/-- Settles O34: the checks are on the open chunk and stream and then on the tag, and any length is taken. -/
theorem chkBeginOpensAChunk : Obligations.ChkBeginOpensAChunk := by
  have hword0 : makeWord0 0x40#8 0#24 = 0x40000000#32 := by decide
  refine ⟨fun L T => congrArg (· :: [L, T]) hword0, nonzeroReservedImmRaisesBadRsvd .chkBegin (.inr (.inl rfl)),
    fun L T s he => ⟨exec_badState (i := .chkBegin L T) he, fun hc hz hT => ?_, exec_chkBegin he⟩⟩
  exact exec_badArg he (by simp [badStateIf, hc, hz]) hT

/-- Settles O35: the bytes are there, so as many come off the count as the command counts. -/
theorem chkDataIsPayload : Obligations.ChkDataIsPayload := by
  refine ⟨fun n hn => ?_, fun n s he =>
    ⟨exec_badState (i := .chkData n) he, fun hc hz hlen => ?_, fun hc hz hn hin => ?_⟩⟩
  · rw [encode_no_args (i := .chkData n) rfl hn]
    simp [Instr.opcode, Opcode.code, Instr.imm]
  · exact exec_badLen he (by simp [badStateIf, hc, hz]) id hlen
  · have hlen : (s.inq.take n).length = n := List.length_take_of_le hin
    rw [exec_chkData he hc hz hn hin, State.emitted_open (s.inDrop n) _ hc, State.inBytes, hlen]
    rfl

/-- Settles O36: the CRC goes to the output past the chunk stage, so the register keeps its value. -/
theorem chkEndEmitsTheChunkCrc : Obligations.ChkEndEmitsTheChunkCrc := by
  refine ⟨rfl, nonzeroReservedImmRaisesBadRsvd .chkEnd (.inl rfl), fun s he =>
    ⟨exec_badState (i := .chkEnd) he, fun hc hz hr => ?_, exec_chkEnd he⟩⟩
  exact exec_badLen he (by simp [badStateIf, hc, hz]) id hr

/-! ### A chunk of CHK_DATA commands (R233) -/

/-- `write_chunk(t, p)` for a payload whose length fits its field. -/
theorem writeChunk_of_lt {p : List Byte} (hlt : p.length < 4294967296) (T : Word) :
    writeChunk T p =
      some (be32 (BitVec.ofNat 32 p.length) ++ be32 T ++ p ++ be32 (crc32 (be32 T ++ p))) := by
  rw [writeChunk, be32OfNat, if_pos hlt]
  rfl

/-- The CRC of a chunk, as CHK_END emits it: the register begun with the tag has taken in the payload. -/
theorem crcOut_tag_payload (T : Word) (p : List Byte) :
    crcOut (p.foldl crcByte ((be32 T).foldl crcByte crcOnes)) = crc32 (be32 T ++ p) := by
  rw [crc32, List.foldl_append, crcOut]

theorem effectOf_chkData_zero (s : State) : effectOf (.chkData 0) s = s :=
  State.emitted_nil s

theorem execAll_chkData {counts : List Nat} {s : State} (he : s.err = false) (hc : s.chkOpen = true)
    (hz : s.zOpen = false) (hr : counts.sum ≤ s.chkRem.toNat) (hin : counts.sum ≤ s.inq.length) :
    execAll (counts.map .chkData) s = .next (effectOf (.chkData counts.sum) s) :=
  execAll_pieces (c := .chkData) nofun effectOf_chkData_zero (fun _ _ _ hp _ => splits_chkData hp) counts he
    (passes_chkData.mpr ⟨hc, hz, hr⟩) hin

/-- The state after the payload `p` of a chunk begun for `p`. -/
def State.chunkFilled (T : Word) (p : List Byte) (s : State) : State :=
  (effectOf (.chkBegin (BitVec.ofNat 32 p.length) T) s).emitted p

/-- The state after CHK_END of that chunk. -/
def State.chunked (T : Word) (p : List Byte) (s : State) : State := effectOf .chkEnd (s.chunkFilled T p)

theorem State.chunkFilled_chkRem (T : Word) (p : List Byte) (s : State) : (s.chunkFilled T p).chkRem = 0#32 :=
  BitVec.sub_self (BitVec.ofNat 32 p.length)

/-- Length, tag, payload and CRC are `write_chunk(t, p)`. -/
theorem State.chunked_outq {p : List Byte} (hlt : p.length < 4294967296) (T : Word) (s : State) :
    ∃ bytes, writeChunk T p = some bytes ∧ (s.chunked T p).outq = s.outq ++ bytes := by
  refine ⟨_, writeChunk_of_lt hlt T, ?_⟩
  change s.outq ++ be32 (BitVec.ofNat 32 p.length) ++ be32 T ++ p ++
    be32 (crcOut (p.foldl crcByte ((be32 T).foldl crcByte crcOnes))) = _
  rw [crcOut_tag_payload]
  simp only [List.append_assoc]

/-- The payload at the front of the input is what goes into the chunk, and it is consumed. -/
theorem effectOf_chkData_payload {T : Word} {p rest : List Byte} {s : State} (hin : s.inq = p ++ rest) :
    effectOf (.chkData p.length) (effectOf (.chkBegin (BitVec.ofNat 32 p.length) T) s) =
      ({ s with inq := rest } : State).chunkFilled T p := by
  simp only [effectOf, State.inDrop, State.inBytes, hin, List.take_left, List.drop_left]
  rfl

/-- CHK_DATA commands whose counts sum to `|p|` between CHK_BEGIN and CHK_END. -/
theorem execAll_chunk {T : Word} {p rest : List Byte} {counts : List Nat} {s : State}
    (hT : ¬badArgIf (.chkBegin (BitVec.ofNat 32 p.length) T)) (hlt : p.length < 4294967296)
    (hsum : counts.sum = p.length) (he : s.err = false) (hc : s.chkOpen = false) (hz : s.zOpen = false)
    (hin : s.inq = p ++ rest) :
    execAll (.chkBegin (BitVec.ofNat 32 p.length) T :: counts.map .chkData ++ [.chkEnd]) s =
      .next (({ s with inq := rest } : State).chunked T p) := by
  have hL : (BitVec.ofNat 32 p.length).toNat = p.length := Nat.mod_eq_of_lt hlt
  have hbegin := exec_chkBegin he hc hz hT
  have hdata := execAll_chkData (counts := counts) (s := effectOf (.chkBegin (BitVec.ofNat 32 p.length) T) s) he rfl
    hz (hsum.trans hL.symm).le (by simp [effectOf, hsum, hin])
  rw [hsum, effectOf_chkData_payload hin] at hdata
  have hend := exec_chkEnd (s := ({ s with inq := rest } : State).chunkFilled T p) he rfl hz
    (State.chunkFilled_chkRem _ _ _)
  calc execAll (.chkBegin (BitVec.ofNat 32 p.length) T :: counts.map .chkData ++ [.chkEnd]) s
      = execAll (counts.map .chkData ++ [.chkEnd]) (effectOf (.chkBegin (BitVec.ofNat 32 p.length) T) s) :=
        execAll_cons hbegin
    _ = execAll [.chkEnd] (({ s with inq := rest } : State).chunkFilled T p) := execAll_append hdata
    _ = .next (({ s with inq := rest } : State).chunked T p) := execAll_cons hend

/-! ### Runs in which no command failed or was left waiting -/

/-- No command has failed, and none is left waiting for input bytes. -/
structure State.Clear (s : State) : Prop where
  err : s.err = false
  current : s.current = none

/-- A command that leaves the block clear had its effect on a clear block: an error stays until SRST, and a waiting
command stays in execution. -/
theorem exec_clear {i : Instr} {s t : State} (ht : t.Clear) (hi : i ≠ .srst) (h : exec i s = .next t) :
    s.Clear ∧ Passes i s ∧ t = effectOf i s := by
  rcases exec_cases h with ⟨he, _, rfl⟩ | ⟨_, _, c, _, _, rfl⟩ | ⟨_, _, _, _, rfl⟩ | ⟨_, hp, _, rfl⟩
  · exact absurd (he.symm.trans ht.err) (by decide)
  · exact absurd ht.err (by simp)
  · exact absurd ht.current (by simp)
  · have hframe := performOf_frame i s
    exact ⟨⟨(hframe.err hi).symm.trans ht.err, hframe.current.symm.trans ht.current⟩, hp, performOf_eq_effectOf hp⟩

theorem execAll_clear {is : List Instr} {s t : State} (ht : t.Clear) (hsrst : ∀ i ∈ is, i ≠ .srst)
    (h : execAll is s = .next t) : s.Clear := by
  induction is generalizing s with
  | nil => cases h; exact ht
  | cons i is ih =>
    obtain ⟨hi, his⟩ := List.forall_mem_cons.mp hsrst
    obtain ⟨u, hu⟩ := exec_answers i s
    rw [execAll_cons hu] at h
    exact (exec_clear (ih his h) hi hu).1

/-- In such a run the first command passed its checks and had its effect, and the run goes on from there. -/
theorem execAll_cons_clear {i : Instr} {is : List Instr} {s t : State} (ht : t.Clear)
    (hsrst : ∀ j ∈ i :: is, j ≠ .srst) (h : execAll (i :: is) s = .next t) :
    Passes i s ∧ execAll is (effectOf i s) = .next t := by
  obtain ⟨hi, his⟩ := List.forall_mem_cons.mp hsrst
  obtain ⟨u, hu⟩ := exec_answers i s
  rw [execAll_cons hu] at h
  obtain ⟨-, hp, rfl⟩ := exec_clear (execAll_clear ht his h) hi hu
  exact ⟨hp, h⟩

/-! ### Payload of the open chunk, counted without wrapping -/

/-- The fields that `EmitC` reads and writes (20_memory.md R66). -/
def State.chunkStage (s : State) : List Byte × Word × Word × Bool := (s.outq, s.crc, s.chkRem, s.chkOpen)

theorem State.emitted_chunkStage {s t : State} (h : s.chunkStage = t.chunkStage) (e : List Byte) :
    (s.emitted e).chunkStage = (t.emitted e).chunkStage := by
  simp only [State.chunkStage, Prod.mk.injEq] at h
  obtain ⟨hout, hcrc, hrem, hopen⟩ := h
  simp only [State.chunkStage, State.emitted, hout, hcrc, hrem, hopen]

/-- From `s` to `t` exactly the bytes `e` have gone through `EmitC`, and an open chunk expected that many. -/
structure State.Puts (s : State) (e : List Byte) (t : State) : Prop where
  fits : e.length ≤ s.chkRem.toNat
  stage : t.chunkStage = (s.emitted e).chunkStage

theorem State.Puts.nothing {s t : State} (h : t.chunkStage = s.chunkStage) : s.Puts [] t :=
  ⟨Nat.zero_le _, by rw [h, State.emitted_nil]⟩

section
variable {s t u : State} {d e : List Byte}

theorem State.Puts.outq (h : s.Puts e t) : t.outq = s.outq ++ e :=
  congrArg (·.1) h.stage

theorem State.Puts.chkOpen (h : s.Puts e t) : t.chkOpen = s.chkOpen :=
  congrArg (·.2.2.2) h.stage

theorem State.Puts.crc (h : s.Puts e t) (hc : s.chkOpen = true) : t.crc = e.foldl crcByte s.crc :=
  (congrArg (·.2.1) h.stage).trans (if_pos hc)

theorem State.Puts.chkRem_toNat (h : s.Puts e t) (hc : s.chkOpen = true) :
    t.chkRem.toNat = s.chkRem.toNat - e.length := by
  have hrem : t.chkRem = (s.emitted e).chkRem := congrArg (·.2.2.1) h.stage
  rw [hrem, State.emitted_chkRem_toNat hc h.fits]

theorem State.Puts.trans (h : s.Puts d t) (h' : t.Puts e u) (hc : s.chkOpen = true) :
    s.Puts (d ++ e) u := by
  have hd := h.fits
  have he := h'.fits
  rw [h.chkRem_toNat hc] at he
  refine ⟨by rw [List.length_append]; omega, ?_⟩
  rw [h'.stage, State.emitted_chunkStage h.stage, State.emitted_emitted]

/-- A payload byte of a stream in a chunk: the chunk has room for all the stream still emits (10_state.md R43), so also
for the byte and its block's header. -/
theorem State.Inv.puts_feedZ (h : s.Inv) (hc : s.chkOpen = true) (hz : s.zOpen = true) (hr : 1 ≤ s.zRem.toNat)
    (x : Byte) : s.Puts (s.blockHeader ++ [x]) (s.feedZ x) where
  fits := by
    have hroom := h.feedZ_room x hr
    have hfit : s.streamRoom ≤ s.chkRem.toNat := h.fits_chunk hz hc
    omega
  stage := by
    rw [State.feedZ_eq, State.blockHeader]
    split <;> rfl

theorem State.Inv.puts_feedAll (h : s.Inv) (hc : s.chkOpen = true) (hz : s.zOpen = true) {p : List Byte}
    (hp : p.length ≤ s.zRem.toNat) : ∃ e, s.Puts e (s.feedAll p) := by
  induction p generalizing s with
  | nil => exact ⟨[], .nothing rfl⟩
  | cons x xs ih =>
    rw [List.length_cons] at hp
    have hr : 1 ≤ s.zRem.toNat := by omega
    have hframe := s.feedZ_frame x
    have hx := h.puts_feedZ hc hz hr x
    obtain ⟨e, hxs⟩ := ih (h.feedZ hz hr x) (hframe.chkOpen.trans hc) (hframe.zOpen.trans hz)
      (by rw [State.feedZ_zRem_toNat x hr]; omega)
    exact ⟨_, hx.trans hxs hc⟩

theorem State.Inv.puts_framed (h : s.Inv) (hc : s.chkOpen = true) (hz : s.zOpen = true) {p : List Byte}
    (hp : p.length ≤ s.zRem.toNat) : ∃ e, s.Puts e (s.framed p) :=
  State.feedAll_eq s p hp ▸ h.puts_feedAll hc hz hp

theorem State.streamTail_length (s : State) : s.streamTail.length = (if s.zHdr = false then 5 else 0) + 4 := by
  rw [State.streamTail, List.length_append]
  cases s.zHdr <;> rfl

/-- The end of a stream emits what R43 leaves room for: the trailer, and the empty block of a stream without one. -/
theorem State.Inv.streamTail_length_le (h : s.Inv) (hc : s.chkOpen = true) (hz : s.zOpen = true)
    (hr : s.zRem = 0#32) : s.streamTail.length ≤ s.chkRem.toNat := by
  have hfit := h.fits_chunk hz hc
  simp only [hr, and_true] at hfit
  rw [State.streamTail_length]
  omega

end

/-- The commands that may stand between CHK_BEGIN and CHK_END (45_chunk_serializer.md R233, R237;
40_control.md R124). -/
def insideChunk : List Opcode :=
  [.chkData, .zlbBegin, .zlbData, .zlbEnd, .fltCfg, .fltRows, .adlInit, .adlFeed, .nop]

/-- Inside an open chunk such a command, once it has passed its checks, puts bytes into the chunk and does nothing else
to it. -/
theorem effectOf_puts {i : Instr} {s : State} (h : s.Inv) (hi : i.opcode ∈ insideChunk)
    (hc : s.chkOpen = true) (hp : Passes i s) : ∃ e, s.Puts e (effectOf i s) := by
  cases i with
  | nop | adlInit | adlFeed _ | fltCfg _ _ => exact ⟨[], .nothing rfl⟩
  | chkData n =>
    obtain ⟨-, -, hn⟩ := passes_chkData.mp hp
    exact ⟨_, (List.length_take_le n s.inq).trans hn, rfl⟩
  | zlbBegin N =>
    have hfit := (passes_zlbBegin.mp hp).2 hc
    have hsize : zlibHeader.length ≤ zsize N.toNat := s.openStream_room N ▸ Nat.le_add_left ..
    exact ⟨_, hsize.trans hfit, rfl⟩
  | zlbData n =>
    obtain ⟨hz, hn⟩ := passes_zlbData.mp hp
    obtain ⟨e, he⟩ := (h.inDrop n).puts_framed hc hz ((List.length_take_le n s.inq).trans hn)
    exact ⟨e, he.fits, he.stage⟩
  | zlbEnd =>
    obtain ⟨hz, hr⟩ := passes_zlbEnd.mp hp
    exact ⟨_, h.streamTail_length_le hc hz hr, rfl⟩
  | fltRows r =>
    obtain ⟨-, hstream, hchunk⟩ := passes_fltRows.mp hp
    have hlen := s.filteredRows_length_le r
    rw [effectOf_fltRows]
    cases hz : s.zOpen with
    | true =>
      rw [State.routed_stream (s := s.inDrop _) _ hz]
      obtain ⟨e, he⟩ := (h.inDrop _).puts_framed hc hz (hlen.trans (hstream hz))
      exact ⟨e, he.fits, he.stage⟩
    | false =>
      rw [State.routed_no_stream (s := s.inDrop _) _ hz]
      exact ⟨_, hlen.trans (hchunk hz hc), rfl⟩
  | srst | raw _ | crcInit | crcFeed _ | crcPut | adlPut | chkBegin _ _ | chkEnd =>
    simp [Instr.opcode, insideChunk] at hi

/-! ### The serializer emits `write_chunk` (R233, R237) -/

theorem ne_srst_of_mem_chunk {cs : List Instr} (hcs : ∀ i ∈ cs, i.opcode ∈ insideChunk) :
    ∀ i ∈ cs ++ [.chkEnd], i ≠ .srst := by
  refine List.forall_mem_append.mpr ⟨fun i hi => ?_, by simp⟩
  rintro rfl
  exact absurd (hcs _ hi) (by decide)

/-- From inside an open chunk to its end: the payload the chunk still expects, and the CRC that takes it in. -/
theorem execAll_to_chkEnd {cs : List Instr} {s t : State} (hinv : s.Inv)
    (hcs : ∀ i ∈ cs, i.opcode ∈ insideChunk) (hc : s.chkOpen = true) (ht : t.Clear)
    (h : execAll (cs ++ [.chkEnd]) s = .next t) :
    ∃ p, p.length = s.chkRem.toNat ∧ t.outq = s.outq ++ p ++ be32 (crcOut (p.foldl crcByte s.crc)) := by
  induction cs generalizing s with
  | nil =>
    obtain ⟨hp, hend⟩ := execAll_cons_clear ht (ne_srst_of_mem_chunk hcs) h
    obtain ⟨-, -, hr⟩ := passes_chkEnd.mp hp
    cases hend
    exact ⟨[], by simp [hr], by simp [effectOf]⟩
  | cons i cs ih =>
    obtain ⟨hp, hrest⟩ := execAll_cons_clear ht (ne_srst_of_mem_chunk hcs) h
    obtain ⟨hi, hcs⟩ := List.forall_mem_cons.mp hcs
    obtain ⟨e, he⟩ := effectOf_puts hinv hi hc hp
    obtain ⟨p, hlen, hout⟩ := ih (hinv.effectOf hp) hcs (he.chkOpen.trans hc) hrest
    have hfits := he.fits
    rw [he.chkRem_toNat hc] at hlen
    refine ⟨e ++ p, by rw [List.length_append]; omega, ?_⟩
    rw [hout, he.outq, he.crc hc, List.foldl_append, ← List.append_assoc s.outq]

/-- Settles O54: CHK_DATA commands are one CHK_DATA of all their bytes; and whatever the commands inside the chunk, each
puts bytes into it that the count and the CRC take in, until CHK_END finds none missing. -/
theorem serializerEmitsWriteChunk : Obligations.SerializerEmitsWriteChunk := by
  refine ⟨fun T counts p rest s hT hlt hsum he hc hz hin => ?_, fun L T cs s t hcs hinv _ _ h herr hcur => ?_⟩
  · obtain ⟨bytes, hbytes, hout⟩ := State.chunked_outq hlt T ({ s with inq := rest } : State)
    exact ⟨_, bytes, execAll_chunk hT hlt hsum he hc hz hin, hbytes, hout, rfl, he, rfl, rfl⟩
  · have hsrst : ∀ i ∈ Instr.chkBegin L T :: (cs ++ [.chkEnd]), i ≠ .srst :=
      List.forall_mem_cons.mpr ⟨nofun, ne_srst_of_mem_chunk hcs⟩
    obtain ⟨hp, hrest⟩ := execAll_cons_clear ⟨herr, hcur⟩ hsrst h
    obtain ⟨p, hlen, hout⟩ := execAll_to_chkEnd (hinv.effectOf hp) hcs rfl ⟨herr, hcur⟩ hrest
    have hL : p.length = L.toNat := hlen
    refine ⟨p, _, hL, writeChunk_of_lt (hL ▸ L.isLt) T, ?_⟩
    rw [hout, hL, BitVec.ofNat_toNat, BitVec.setWidth_eq, ← crcOut_tag_payload]
    simp only [effectOf, List.append_assoc]

end Sys2Proof.Machine
end

section
/-! ## The PNG command sequence (46_png_host_sequence.md) -/

namespace Sys2Proof.Machine

/-- A number that fits a word is read back from it. Said of a variable: for a length that computes, the kernel would
compute it. -/
theorem toNat_word_of_lt {n : Nat} (h : n < 4294967296) : (BitVec.ofNat 32 n).toNat = n := Nat.mod_eq_of_lt h

/-! ### Sequences between which nothing is open -/

/-- Outside the error state, with no chunk and no stream open. -/
structure State.Ready (s : State) : Prop where
  err : s.err = false
  chkOpen : s.chkOpen = false
  zOpen : s.zOpen = false

/-- From a ready state the commands turn the bytes `input` into the bytes `output` and end in a ready state; none
of them fails or is left waiting, and what is queued behind the input stays. -/
def Emits (cs : List Instr) (input output : List Byte) : Prop :=
  ∀ (rest : List Byte) (s : State), s.Ready → s.inq = input ++ rest →
    ∃ t, execAll cs s = .next t ∧ t.Ready ∧ t.outq = s.outq ++ output ∧ t.inq = rest ∧ t.current = s.current

theorem Emits.append {cs cs' : List Instr} {input input' output output' : List Byte} (h : Emits cs input output)
    (h' : Emits cs' input' output') : Emits (cs ++ cs') (input ++ input') (output ++ output') := by
  intro rest s hs hin
  obtain ⟨t, ht, hready, hout, hrest, hcur⟩ := h (input' ++ rest) s hs (by rw [hin, List.append_assoc])
  obtain ⟨u, hu, hready', hout', hrest', hcur'⟩ := h' rest t hready hrest
  exact ⟨u, (execAll_append ht).trans hu, hready', by rw [hout', hout, List.append_assoc], hrest', hcur'.trans hcur⟩

theorem emits_raw (p : List Byte) : Emits [.raw p.length] p p := by
  intro rest s hs hin
  have hp : Passes (.raw p.length) s := passes_raw.mpr ⟨hs.chkOpen, hs.zOpen⟩
  refine ⟨_, execAll_cons (exec_effectOf hs.err hp (by simp [needBytes, hin])),
    ⟨hs.err, hs.chkOpen, hs.zOpen⟩, ?_, ?_, rfl⟩ <;>
    simp [effectOf, State.inBytes, State.inDrop, hin]

/-! ### Chunks -/

theorem not_badArgIf_chkBegin {T : Word} (h : tagOk T = true) (L : Word) : ¬badArgIf (.chkBegin L T) := by
  rw [← tagOk_iff, h]
  decide

/-- The payload and the 12 bytes of length, tag and CRC (45_chunk_serializer.md R230). -/
theorem writeChunk_length {T : Word} {p bytes : List Byte} (h : writeChunk T p = some bytes) :
    bytes.length = 12 + p.length := by
  by_cases hlt : p.length < 4294967296
  · rw [writeChunk_of_lt hlt] at h
    cases h
    simp only [List.length_append, be32, List.length_cons, List.length_nil]
    omega
  · simp [writeChunk, be32OfNat, hlt] at h

/-- A chunk of CHK_DATA commands. -/
theorem emits_chunk {T : Word} {p bytes : List Byte} {counts : List Nat} (hT : tagOk T = true)
    (hlt : p.length < 4294967296) (hsum : counts.sum = p.length) (hbytes : writeChunk T p = some bytes) :
    Emits (Instr.chkBegin (BitVec.ofNat 32 p.length) T :: counts.map .chkData ++ [Instr.chkEnd]) p bytes := by
  intro rest s hs hin
  obtain ⟨_, hbytes', hout⟩ := State.chunked_outq hlt T ({ s with inq := rest } : State)
  cases hbytes.symm.trans hbytes'
  exact ⟨_, execAll_chunk (not_badArgIf_chkBegin hT _) hlt hsum hs.err hs.chkOpen hs.zOpen hin,
    ⟨hs.err, rfl, hs.zOpen⟩, hout, rfl, rfl⟩

/-! ### A stream of filtered rows (44_scanline_filter.md R212, 43_zlib_framer.md R190) -/

section
variable {d raster rest : List Byte} {s : State}

/-- The raster at the front of the input is what the stream is fed with, filtered, and it is consumed. -/
theorem effectOf_fltRows_payload {r : Nat} (hd : filterScanlines s.fltCh4 s.fltW.toNat r raster = d)
    (hlen : raster.length = needBytes (.fltRows r) s) (hin : s.inq = raster ++ rest) :
    effectOf (.fltRows r) (effectOf (.zlbBegin (BitVec.ofNat 32 d.length)) s) =
      ({ s with inq := rest } : State).streamed d := by
  rw [effectOf_fltRows_raster (s := effectOf (.zlbBegin _) s) hlen hin, ← hd]
  rfl

/-- FLT_ROWS commands between ZLB_BEGIN and ZLB_END, also inside a chunk with room for the stream. -/
theorem execAll_rowStream {counts : List Nat}
    (hd : filterScanlines s.fltCh4 s.fltW.toNat counts.sum raster = d) (hlt : d.length < 4294967296)
    (hlen : raster.length = needBytes (.fltRows counts.sum) s) (he : s.err = false) (hW : s.fltW ≠ 0#32)
    (hz : s.zOpen = false) (hfit : s.chkOpen = true → zsize d.length ≤ s.chkRem.toNat) (hin : s.inq = raster ++ rest) :
    execAll (Instr.zlbBegin (BitVec.ofNat 32 d.length) :: counts.map .fltRows ++ [Instr.zlbEnd]) s =
      .next (({ s with inq := rest } : State).wrapped d) := by
  have hN : (BitVec.ofNat 32 d.length).toNat = d.length := toNat_word_of_lt hlt
  have hrows_length : filteredLength counts.sum s.fltW.toNat = d.length := by rw [← hd, filterScanlines_length]
  have hneed : needBytes (.fltRows counts.sum) s ≤ s.inq.length := by simp [hin, hlen]
  have hbegin := exec_zlbBegin (N := BitVec.ofNat 32 d.length) he hz (by rwa [hN])
  have hrows := execAll_fltRows (counts := counts) (s := effectOf (.zlbBegin (BitVec.ofNat 32 d.length)) s) he
    (passes_fltRows.mpr ⟨hW, fun _ => (hrows_length.trans hN.symm).le, nofun⟩) hneed
  rw [effectOf_fltRows_payload hd hlen hin] at hrows
  have hend := exec_zlbEnd (s := ({ s with inq := rest } : State).streamed d) he rfl (State.streamed_zRem _ _)
  calc execAll (Instr.zlbBegin (BitVec.ofNat 32 d.length) :: counts.map .fltRows ++ [Instr.zlbEnd]) s
      = execAll (counts.map Instr.fltRows ++ [Instr.zlbEnd]) (effectOf (.zlbBegin (BitVec.ofNat 32 d.length)) s) :=
        execAll_cons hbegin
    _ = execAll [.zlbEnd] (({ s with inq := rest } : State).streamed d) := execAll_append hrows
    _ = .next (({ s with inq := rest } : State).wrapped d) := execAll_cons hend

end

/-! ### A stream as the payload of a chunk -/

/-- A payload is shorter than its stream. -/
theorem length_lt_of_zlibWrap {d : List Byte} {n : Nat} (h : (zlibWrap d).length < n) : d.length < n := by
  rw [zlibWrap_length, zsize] at h
  omega

/-- To the chunk stage a whole stream is `zlib_wrap(d)`. -/
theorem State.wrapped_chunkStage {d : List Byte} (hlt : d.length < 4294967296) (s : State) :
    (s.wrapped d).chunkStage = (s.emitted (zlibWrap d)).chunkStage := by
  have hrem : (BitVec.ofNat 32 d.length).toNat = d.length := toNat_word_of_lt hlt
  have hstreamed : (s.streamed d).chunkStage = (s.emitted (zlibHeader ++ framedBytes d.length 0 d)).chunkStage := by
    rw [← State.emitted_emitted]
    conv_rhs => rw [← hrem]
    rfl
  change ((s.streamed d).emitted (s.streamed d).streamTail).chunkStage = _
  rw [State.emitted_chunkStage hstreamed, State.emitted_emitted, State.streamTail_streamed, zlibWrap_eq,
    ← framedBytes_eq_storedBlocks]
  simp only [List.append_assoc]

/-- The chunk begun for the stream `d`, once the whole stream is in it. -/
def State.streamChunk (T : Word) (d : List Byte) (s : State) : State :=
  (effectOf (.chkBegin (BitVec.ofNat 32 (zlibWrap d).length) T) s).wrapped d

theorem State.streamChunk_chunkStage {d : List Byte} (hlt : d.length < 4294967296) (T : Word) (s : State) :
    (s.streamChunk T d).chunkStage = (s.chunkFilled T (zlibWrap d)).chunkStage :=
  State.wrapped_chunkStage hlt _

/-- CHK_END reads the chunk stage alone: it emits what it emits for a chunk of CHK_DATA commands. -/
theorem exec_chkEnd_streamChunk {T : Word} {d bytes : List Byte} {s : State} (he : s.err = false)
    (hlt : (zlibWrap d).length < 4294967296) (hbytes : writeChunk T (zlibWrap d) = some bytes) :
    ∃ t, exec .chkEnd (s.streamChunk T d) = .next t ∧ t.Ready ∧ t.outq = s.outq ++ bytes ∧ t.inq = s.inq ∧
      t.current = s.current := by
  have hstage := State.streamChunk_chunkStage (length_lt_of_zlibWrap hlt) T s
  simp only [State.chunkStage, Prod.mk.injEq] at hstage
  obtain ⟨hout, hcrc, hrem, -⟩ := hstage
  obtain ⟨_, hbytes', hchunk⟩ := State.chunked_outq hlt T s
  cases hbytes.symm.trans hbytes'
  refine ⟨_, exec_chkEnd he rfl rfl (hrem.trans (State.chunkFilled_chkRem T _ s)), ⟨he, rfl, rfl⟩, ?_, rfl, rfl⟩
  rw [← hchunk, hout, hcrc]
  rfl

/-- A chunk of the stream of filtered rows, after the filter has been configured for them. -/
theorem emits_rowChunk {ch4 : Bool} {T W : Word} {counts : List Nat} {d raster bytes : List Byte}
    (hd : filterScanlines ch4 W.toNat counts.sum raster = d) (hlt : (zlibWrap d).length < 4294967296)
    (hT : tagOk T = true) (hW : W ≠ 0#32) (hlen : raster.length = counts.sum * W.toNat * channels ch4)
    (hbytes : writeChunk T (zlibWrap d) = some bytes) :
    Emits (Instr.fltCfg (channels ch4) W :: .chkBegin (BitVec.ofNat 32 (zlibWrap d).length) T ::
      (Instr.zlbBegin (BitVec.ofNat 32 d.length) :: counts.map .fltRows ++ [Instr.zlbEnd]) ++ [Instr.chkEnd])
      raster bytes := by
  intro rest s hs hin
  have hL : (BitVec.ofNat 32 (zlibWrap d).length).toNat = zsize d.length :=
    (toNat_word_of_lt hlt).trans (zlibWrap_length d)
  have hcfg := exec_fltCfg_channels (ch4 := ch4) hs.err hW
  have hbegin := exec_chkBegin (s := s.configured ch4 W) hs.err hs.chkOpen hs.zOpen
    (not_badArgIf_chkBegin hT (BitVec.ofNat 32 (zlibWrap d).length))
  have hstream := execAll_rowStream
    (s := effectOf (.chkBegin (BitVec.ofNat 32 (zlibWrap d).length) T) (s.configured ch4 W))
    hd (length_lt_of_zlibWrap hlt) hlen hs.err hW hs.zOpen (fun _ => hL.ge) hin
  obtain ⟨t, hend, hready, hout, hrest, hcur⟩ :=
    exec_chkEnd_streamChunk (s := { s.configured ch4 W with inq := rest }) hs.err hlt hbytes
  refine ⟨t, ?_, hready, hout, hrest, hcur⟩
  rw [List.cons_append, execAll_cons hcfg, List.cons_append, execAll_cons hbegin]
  exact (execAll_append hstream).trans (execAll_cons hend)

/-! ### The image (R260-R266) -/

/-- The sizes that R266 asks of the IDAT length bound the width and the height too. -/
theorem PngPreconditions.sizes_lt {W H ch : Nat} {raster : List Byte} (h : PngPreconditions W H ch raster) :
    W < 4294967296 ∧ H < 4294967296 := by
  have hidat := h.idat_fits
  have hW : 1 + 3 * W ≤ H * (1 + 3 * W) := Nat.le_mul_of_pos_left _ h.height_pos
  have hH : H ≤ H * (1 + 3 * W) := Nat.le_mul_of_pos_right _ (Nat.add_pos_left Nat.one_pos _)
  rw [zsize] at hidat
  omega

theorem ihdrPayload_of_lt {W H : Nat} (hW : W < 4294967296) (hH : H < 4294967296) :
    ∃ payload, ihdrPayload W H = some payload := by
  simp [ihdrPayload, be32OfNat, hW, hH]

theorem ihdrPayload_length {W H : Nat} {payload : List Byte} (h : ihdrPayload W H = some payload) :
    payload.length = 13 := by
  simp only [ihdrPayload, be32OfNat, Option.bind_eq_some_iff, Option.map_eq_some_iff, Option.ite_none_right_eq_some,
    Option.some.injEq] at h
  obtain ⟨_, ⟨-, rfl⟩, _, ⟨-, rfl⟩, rfl⟩ := h
  rfl

/-- What `encode_png` puts together (R260): the IHDR payload and the three chunks, where they all exist. -/
structure PngParts (ch4 : Bool) (W H : Nat) (raster : List Byte) where
  payload : List Byte
  ihdr : List Byte
  idat : List Byte
  iend : List Byte
  payload_eq : ihdrPayload W H = some payload
  ihdr_eq : writeChunk tagIHDR payload = some ihdr
  idat_eq : writeChunk tagIDAT (zlibWrap (filterScanlines ch4 W H raster)) = some idat
  iend_eq : writeChunk tagIEND [] = some iend

namespace PngParts

variable {ch4 : Bool} {W H : Nat} {raster : List Byte}

/-- The image. -/
def png (p : PngParts ch4 W H raster) : List Byte := pngSignature ++ p.ihdr ++ p.idat ++ p.iend

/-- The input of the command sequence (R265). -/
def input (p : PngParts ch4 W H raster) : List Byte := pngSignature ++ p.payload ++ raster

theorem encodePng_eq (p : PngParts ch4 W H raster) : encodePng ch4 W H raster = some p.png := by
  simp [encodePng, p.payload_eq, p.ihdr_eq, p.idat_eq, p.iend_eq, png]

theorem pngInput_eq (p : PngParts ch4 W H raster) : pngInput W H raster = some p.input := by
  rw [pngInput, p.payload_eq]
  rfl

theorem png_length (p : PngParts ch4 W H raster) : p.png.length = 57 + zsize (H * (1 + 3 * W)) := by
  have hsignature : pngSignature.length = 8 := rfl
  simp only [png, List.length_append, hsignature, writeChunk_length p.ihdr_eq, writeChunk_length p.idat_eq,
    writeChunk_length p.iend_eq, ihdrPayload_length p.payload_eq, zlibWrap_length, filterScanlines_length,
    filteredLength, List.length_nil]
  omega

/-- The sequence of R265, chunk by chunk. -/
theorem emits (p : PngParts ch4 W H raster) (hpre : PngPreconditions W H (channels ch4) raster) :
    Emits ([Instr.raw 8, .chkBegin 13#32 tagIHDR, .chkData 13, .chkEnd, .fltCfg (channels ch4) (BitVec.ofNat 32 W),
        .chkBegin (BitVec.ofNat 32 (zsize (H * (1 + 3 * W)))) tagIDAT, .zlbBegin (BitVec.ofNat 32 (H * (1 + 3 * W)))]
      ++ (pieces H).map .fltRows ++ [Instr.zlbEnd, .chkEnd, .chkBegin 0#32 tagIEND, .chkEnd]) p.input p.png := by
  have hW : (BitVec.ofNat 32 W).toNat = W := toNat_word_of_lt hpre.sizes_lt.1
  have hW0 : BitVec.ofNat 32 W ≠ 0#32 := by
    intro h0
    rw [h0] at hW
    exact absurd hW (Nat.ne_of_lt hpre.width_pos)
  have hrows : (filterScanlines ch4 W H raster).length = H * (1 + 3 * W) := filterScanlines_length ..
  have hstream : (zlibWrap (filterScanlines ch4 W H raster)).length = zsize (H * (1 + 3 * W)) := by
    rw [zlibWrap_length, hrows]
  have hpayload := ihdrPayload_length p.payload_eq
  have hihdr := emits_chunk (counts := [13]) (by decide) (hpayload.trans_lt (by decide)) hpayload.symm p.ihdr_eq
  have hidat := emits_rowChunk (W := BitVec.ofNat 32 W) (counts := pieces H) (by rw [hW, pieces_sum])
    (hstream.trans_lt (Nat.lt_succ_of_le hpre.idat_fits)) (by decide) hW0
    (by rw [hW, pieces_sum, hpre.raster_length]) p.idat_eq
  have hiend := emits_chunk (counts := []) (by decide) (by decide) rfl p.iend_eq
  have hall := (((emits_raw pngSignature).append hihdr).append hidat).append hiend
  rw [hpayload, hstream, hrows, List.append_nil] at hall
  simpa [pngSignature, input, png] using hall

end PngParts

/-- Under R266's preconditions they do exist. -/
theorem PngPreconditions.parts {ch4 : Bool} {W H ch : Nat} {raster : List Byte} (h : PngPreconditions W H ch raster) :
    Nonempty (PngParts ch4 W H raster) := by
  obtain ⟨hW, hH⟩ := h.sizes_lt
  obtain ⟨payload, hpayload⟩ := ihdrPayload_of_lt hW hH
  have hlen := ihdrPayload_length hpayload
  have hidat : (zlibWrap (filterScanlines ch4 W H raster)).length < 4294967296 := by
    rw [zlibWrap_length, filterScanlines_length]
    exact Nat.lt_succ_of_le h.idat_fits
  exact ⟨⟨payload, _, _, _, hpayload, writeChunk_of_lt (hlen.trans_lt (by decide)) _, writeChunk_of_lt hidat _,
    writeChunk_of_lt (by decide) _⟩⟩

/-- Settles O55: the sequence is four parts, RAW and the three chunks; each leaves nothing open, and emits its part of
the image. -/
theorem pngSequenceEmitsEncodePng : Obligations.PngSequenceEmitsEncodePng := by
  intro ch4 W H raster hpre
  obtain ⟨p⟩ := hpre.parts (ch4 := ch4)
  have hch : (if ch4 = true then 4 else 3) < 16777216 := by cases ch4 <;> decide
  refine ⟨_, p.input, p.png, pngCommands_fits hch hpre.sizes_lt.1 (Nat.lt_succ_of_le hpre.idat_fits), p.pngInput_eq,
    p.encodePng_eq, p.png_length, fun rest s he hc hz hin => ?_⟩
  obtain ⟨t, ht, hready, hout, hrest, hcur⟩ := p.emits hpre rest s ⟨he, hc, hz⟩ hin
  exact ⟨t, ht, hout, hrest, hready.err, hcur⟩

end Sys2Proof.Machine
end

section
/-! ## Command errors, the error state and the idle block (60_exceptions.md) -/

namespace Sys2Proof.Machine

/-! ### Raising an error (R283) -/

/-- Settles O12: `firstError` takes the columns of R282 in the order of R284, and a rejected word is recorded by the step
itself. -/
theorem failingCheckRecordsOnlyTheError : Obligations.FailingCheckRecordsOnlyTheError := by
  refine ⟨fun i s he => ⟨exec_badState he, exec_badArg he, exec_badLen he⟩, fun s why w0 rest he hc hd => ?_⟩
  rw [step_rejects he hc hd]
  cases why <;> rfl

/-! ### The first error is kept (R286-R288) -/

/-- In the error state a command is discarded, or it is SRST, which clears the error (R286, R287). -/
theorem exec_in_error {i : Instr} {s t : State} (he : s.err = true) (h : exec i s = .next t) :
    t = s ∨ (i = .srst ∧ t.err = false) := by
  by_cases hi : i = .srst
  · subst hi
    cases h
    exact .inr ⟨rfl, rfl⟩
  · rw [exec_err he hi] at h
    cases h
    exact .inl rfl

/-- Settles O15: taking words and waking the waiting command leave the error record alone, no rejected word overwrites
it, and of the commands only SRST passes the error gate. -/
theorem firstErrorIsKept : Obligations.FirstErrorIsKept := by
  intro s t he hstep
  rcases step_cases hstep with ⟨i, hc, hexec⟩ | ⟨_, _, rfl⟩ | ⟨_, why, w0, rest, _, hill⟩ | ⟨hc, i, rest, hd, hexec⟩
  · rcases exec_in_error (s := s.resume) he hexec with rfl | ⟨rfl, hclear⟩
    · exact .inl ⟨he, rfl, rfl⟩
    · exact .inr ⟨hclear, .inl hc⟩
  · exact .inl ⟨he, rfl, rfl⟩
  · rcases hill with ⟨_, rfl⟩ | ⟨hno, _⟩
    · exact .inl ⟨he, rfl, rfl⟩
    · exact absurd (he.symm.trans hno) (by decide)
  · rcases exec_in_error (s := s.taken rest) he hexec with rfl | ⟨rfl, hclear⟩
    · exact .inl ⟨he, rfl, rfl⟩
    · exact .inr ⟨hclear, .inr ⟨hc, rest, eq_encode_of_decode hd⟩⟩

/-! ### The idle block, and every step's answer (R280, R289, R296) -/

/-- Settles O10: with no word anywhere and nothing in execution, a step moves no words into the assembler. -/
theorem idleBlockHoldsItsState : Obligations.IdleBlockHoldsItsState := by
  intro s hidle
  obtain ⟨hcmdq, hasm, hcur⟩ := (State.busy_eq_false s).mp hidle
  have hwords : s.commandWords = s.asmWords := by simp [State.commandWords, hcmdq]
  have hnone : decode s.commandWords = .incomplete := by rw [hwords, hasm]; rfl
  rw [step_incomplete hcur hnone, State.assemble, hwords, ← hcmdq]

/-- Settles O11: each case of the execution cycle ends in a next state. -/
theorem blockNeverStops : Obligations.BlockNeverStops := step_answers

end Sys2Proof.Machine
end

section
/-! ## The end of a run and its result (70_reset_and_hazards.md R324), and the registers after reset (R311) -/

namespace Sys2Proof.Machine

/-! ### The 8 registers as a list -/

theorem State.registers_length (s : State) : s.registers.length = 8 := by simp [State.registers]

theorem State.registers_getElem? (s : State) (a : BitVec 3) : s.registers[a.toNat]? = some (s.register a) := by
  have ha : a.toNat < 8 := a.isLt
  simp [State.registers, ha]

/-- A list that holds each register at its address holds nothing else (R32: all 8 addresses are decoded). -/
theorem State.eq_registers_iff (s : State) (l : List Word) :
    l = s.registers ↔ l.length = 8 ∧ ∀ a : BitVec 3, l[a.toNat]? = some (s.register a) := by
  constructor
  · rintro rfl
    exact ⟨s.registers_length, s.registers_getElem?⟩
  · rintro ⟨hlen, hget⟩
    refine List.ext_getElem? fun j => ?_
    rcases Nat.lt_or_ge j 8 with hj | hj
    · have hread := (hget (BitVec.ofNat 3 j)).trans (s.registers_getElem? (BitVec.ofNat 3 j)).symm
      rwa [BitVec.toNat_ofNat, Nat.mod_eq_of_lt hj] at hread
    · rw [List.getElem?_eq_none (hlen.trans_le hj), List.getElem?_eq_none (s.registers_length.trans_le hj)]

/-- While BUSY = 0 every read transaction reads the register, so reads tell the list too. -/
theorem State.eq_registers_iff_readPort {s : State} (h : s.busy = false) (l : List Word) :
    l = s.registers ↔ l.length = 8 ∧ ∀ (k : Nat) (a : BitVec 3), l[a.toNat]? = some (s.readPort k a) := by
  simp only [State.readPort_idle h, forall_const, s.eq_registers_iff]

/-! ### When a run has a result -/

theorem System.result_eq_some_iff (y : System) (r : RunResult) :
    y.result = some r ↔
      y.ended = true ∧ r.output = y.taken ∧ r.inq = y.block.inq ∧ r.registers = y.block.registers := by
  obtain ⟨output, registers, inq⟩ := r
  rw [System.result, Option.ite_none_right_eq_some, Option.some.injEq, RunResult.mk.injEq]
  refine and_congr_right fun _ => ⟨?_, ?_⟩ <;> rintro ⟨rfl, rfl, rfl⟩ <;> exact ⟨rfl, rfl, rfl⟩

/-! ### The output only grows -/

/-- The output of the joined block: the bytes taken, then those still queued. -/
theorem System.joined_outq (y : System) : y.joined.outq = y.taken ++ y.block.outq := rfl

theorem System.joined_outq_prefix_move (y : System) (m : Move) : y.joined.outq <+: (y.move m).joined.outq := by
  by_cases hm : m = .step
  · subst hm
    obtain ⟨-, e, hout⟩ := streamsOnlyAdvance y.block _ y.block.step_stepped
    refine ⟨e, ?_⟩
    rw [System.joined_outq, System.joined_outq, System.move_step, hout, List.append_assoc]
  · rw [y.joined_transfer hm]

theorem System.joined_outq_prefix_run (y : System) (ms : List Move) : y.joined.outq <+: (y.run ms).joined.outq :=
  System.run_keeps (P := fun z => y.joined.outq <+: z.joined.outq)
    (fun z m h => h.trans (z.joined_outq_prefix_move m)) ms y (List.prefix_refl _)

/-- Settles O57: the result is read off the ended system, whose block is idle, so that reads are exact; and a transfer only
moves output bytes to the host, while a step adds some at the end. -/
theorem runResultIsOutputRegistersAndInput : Obligations.RunResultIsOutputRegistersAndInput := by
  refine ⟨fun y r => ?_, fun y moves => ?_⟩
  · rw [y.result_eq_some_iff, y.ended_iff]
    constructor
    · rintro ⟨⟨hwords, hbusy, hout⟩, houtput, hinq, hregs⟩
      exact ⟨hwords, hbusy, hout, houtput, hinq, (State.eq_registers_iff_readPort hbusy _).mp hregs⟩
    · rintro ⟨hwords, hbusy, hout, houtput, hinq, hreads⟩
      exact ⟨⟨hwords, hbusy, hout⟩, houtput, hinq, (State.eq_registers_iff_readPort hbusy _).mpr hreads⟩
  · obtain ⟨e, he⟩ := y.joined_outq_prefix_run moves
    exact ⟨e, he.symm⟩

/-! ### Reads after reset -/

theorem State.readPort_reset (k : Nat) (a : BitVec 3) : State.reset.readPort k a = State.reset.register a :=
  State.readPort_idle rfl k a

/-- Settles O21: after reset the block is idle, so each read is the register. -/
theorem registersAfterReset : Obligations.RegistersAfterReset := by
  intro k
  simp only [State.readPort_reset]
  exact ⟨State.status_reset, by decide, by decide, rfl, rfl, by decide, rfl, rfl⟩

end Sys2Proof.Machine
end
